-- ==== Sys2Proof/Word.lean ====
section
/-! DEFINITION. The words of the machine: bytes, half precision and single precision values, general register
and vector register contents. They are bit vectors because the spec slices and concatenates them (00_scope.md
R10). Lengths, lane numbers and addresses under computation are natural numbers or integers (R11, R45). -/

namespace Sys2Proof

/-- One byte of memory or of an instruction. -/
abbrev Byte := BitVec 8
/-- A half precision (FP16) value (40_conversion.md R100). -/
abbrev Half := BitVec 16
/-- A single precision (FP32) value (40_conversion.md R101). -/
abbrev Single := BitVec 32
/-- A general register, the instruction pointer, an opmask register or a control register. -/
abbrev Quad := BitVec 64
/-- A vector register: 512 bits of storage, of which the low MAXVL exist (10_state.md R20, log 10). -/
abbrev VReg := BitVec 512

end Sys2Proof
end

