-- ==== Sys2Proof/Config.lean ====
section
/-! DEFINITION. What one processor fixes (00_scope.md R6, R2). The configuration is plain data; State holds one, and
no step changes it (log 9). The free values of the model take a State and stand after it, in Machine/State.lean. -/

namespace Sys2Proof

/-- Execution mode (R6): 64-bit mode, or 32-bit protected and compatibility mode (92_eei_decisions.md D5). -/
inductive Mode
  | mode64
  | mode32
  deriving DecidableEq, Repr

/-- How `L'L` is treated in an encoding with `EVEX.b = 1` and a register source (R6, R75, D15). -/
inductive SaeLenPolicy
  | require10
  | ignore
  deriving DecidableEq, Repr

/-- Width of an opmask register (R6, R23). -/
inductive MaskWidth
  | w16
  | w64
  deriving DecidableEq, Repr

/-- The AVX-512 part of a processor that reports AVX512F: the two further flags. Holding them here makes
"true only if AVX512F" (R6) hold by construction. -/
structure Avx512 where
  vl   : Bool
  fp16 : Bool
  deriving DecidableEq, Repr

/-- A quiet FP32 NaN by the bits that R101 leaves it: its sign, and its fraction below the quiet bit. -/
structure QuietNaN where
  sign    : BitVec 1
  payload : BitVec 22
  deriving DecidableEq, Repr

/-- The configuration of rule R6, and the field that D10 and R112 of 40_conversion.md add to it. -/
structure CpuConfig where
  mode         : Mode
  f16c         : Bool
  /-- `none` on a processor without AVX512F. -/
  avx512       : Option Avx512
  kw           : MaskWidth
  saeLenPolicy : SaeLenPolicy
  /-- Whether the oracle may answer `#AC(0)` for a misaligned operand of an EVEX form (R43). -/
  evexAc       : Bool
  /-- `cvt_h2s` on NaN inputs (D10, R112; 93_implementation_defined.md part 1): the inputs whose result is not the
  default of R104, each with its result. The first entry of an input counts; entries of other inputs play no part (log 18). -/
  nanResults   : List (Half × QuietNaN)
  deriving DecidableEq, Repr

/-- CPUID flag AVX512F (R2). -/
def CpuConfig.hasAvx512F (c : CpuConfig) : Bool := c.avx512.isSome

/-- CPUID flag AVX512VL (R2). -/
def CpuConfig.hasAvx512VL (c : CpuConfig) : Bool := c.avx512.any Avx512.vl

/-- CPUID flag AVX512_FP16 (R2). -/
def CpuConfig.hasAvx512Fp16 (c : CpuConfig) : Bool := c.avx512.any Avx512.fp16

/-- `MAXVL`: 512 exactly when AVX512F is true, else 256 (R6, D3). -/
def CpuConfig.maxvl (c : CpuConfig) : Nat := if c.hasAvx512F then 512 else 256

/-- `NVREG`, how many vector registers there are (R6, R20). -/
def CpuConfig.nvreg (c : CpuConfig) : Nat :=
  match c.mode with
  | .mode32 => 8
  | .mode64 => if c.hasAvx512F then 32 else 16

/-- `KW` in bits (R6, R23). -/
def MaskWidth.bits : MaskWidth → Nat
  | .w16 => 16
  | .w64 => 64

/-- Bits of a linear address in a mode (R31). -/
def Mode.addrBits : Mode → Nat
  | .mode64 => 64
  | .mode32 => 32

end Sys2Proof
end

