-- ==== Sys2Proof/Syntax.lean ====
section
/-! DEFINITION. The instructions: one constructor for each of the eight rows of spec/opcode_table.json
(30_encoding.md R60). A constructor keeps every field of the row's encoding that the rules read or check, and
enough of its shape that its length follows (R83). Prefix bits stored inverted are held un-inverted inside
register numbers (R71, R72); `vvvv` and `V'` are held as STORED, the way R77 and R78 speak of them. -/

namespace Sys2Proof

/-- The displacement bytes after ModRM and SIB (R70): none, one or four. -/
inductive Disp
  | absent
  | d8  (v : BitVec 8)
  | d32 (v : BitVec 32)
  deriving DecidableEq, Repr

/-- The addressing forms of rule R70, for `mod != 11b`. Register numbers carry their prefix bit (`B ++ rm`,
`B ++ base`, `X ++ index`). -/
inductive AddrForm
  /-- No SIB byte: `gpr[B ++ rm]` plus a displacement. -/
  | base (r : BitVec 4) (d : Disp)
  /-- `mod = 00b`, `rm = 101b`: RIP-relative in Mode64, absolute in Mode32. -/
  | disp32 (v : BitVec 32)
  /-- A SIB byte with a base register (R69). `index = 0100b` means there is no index. -/
  | sib (scale : BitVec 2) (index base : BitVec 4) (d : Disp)
  /-- A SIB byte with `base = 101b` and `mod = 00b`: no base register. -/
  | sibNoBase (scale : BitVec 2) (index : BitVec 4) (v : BitVec 32)
  deriving DecidableEq, Repr

/-- Operand 2 of a VEX form (R72): a register of 0 to 15, or memory. -/
inductive VexSrc
  | reg (r : BitVec 4)
  | mem (a : AddrForm)
  deriving DecidableEq, Repr

/-- Operand 2 of an EVEX form of 128 or 256 bits: a register, memory with `EVEX.b = 0`, or memory with
`EVEX.b = 1` (R75). -/
inductive EvexSrc
  | reg (r : BitVec 5)
  | mem (a : AddrForm)
  | memB (a : AddrForm)
  deriving DecidableEq, Repr

/-- Operand 2 of an EVEX form of 512 bits: as `EvexSrc`, and a register with `EVEX.b = 1` is `{sae}` (R75). -/
inductive EvexSrc512
  | reg (r : BitVec 5)
  | regSae (r : BitVec 5)
  | mem (a : AddrForm)
  | memB (a : AddrForm)
  deriving DecidableEq, Repr

/-- The fields of a VEX form (R63, R71, R72, R76, R77). -/
structure VexOps where
  /-- A 67H prefix precedes (R62). -/
  p67  : Bool
  dst  : BitVec 4
  /-- `VEX.W`. -/
  w    : Bool
  /-- The four stored bits of `VEX.vvvv`. -/
  vvvv : BitVec 4
  src  : VexSrc
  deriving DecidableEq, Repr

/-- The fields of an EVEX form (R65, R71 to R78); `σ` is the type of operand 2. -/
structure EvexOps (σ : Type) where
  /-- A 67H prefix precedes (R62). -/
  p67  : Bool
  dst  : BitVec 5
  /-- `EVEX.W`. -/
  w    : Bool
  /-- The four stored bits of `EVEX.vvvv`. -/
  vvvv : BitVec 4
  /-- `EVEX.z`: zeroing-masking (R74). -/
  z    : Bool
  /-- The stored bit of `EVEX.V'` (R78). -/
  vp   : Bool
  /-- The write-mask selector (R74). -/
  aaa  : BitVec 3
  src  : σ
  deriving DecidableEq, Repr

/-- The eight forms of rule R60, in the table's order. -/
inductive Instr
  /-- `VEX.128.66.0F38.W0 13 /r`: VCVTPH2PS xmm1, xmm2/m64 (R120). -/
  | vcvtph2psVex128 (x : VexOps)
  /-- `VEX.256.66.0F38.W0 13 /r`: VCVTPH2PS ymm1, xmm2/m128 (R121). -/
  | vcvtph2psVex256 (x : VexOps)
  /-- `EVEX.128.66.0F38.W0 13 /r`: VCVTPH2PS xmm1 k1 z, xmm2/m64 (R130). -/
  | vcvtph2psEvex128 (x : EvexOps EvexSrc)
  /-- `EVEX.256.66.0F38.W0 13 /r`: VCVTPH2PS ymm1 k1 z, xmm2/m128 (R131). -/
  | vcvtph2psEvex256 (x : EvexOps EvexSrc)
  /-- `EVEX.512.66.0F38.W0 13 /r`: VCVTPH2PS zmm1 k1 z, ymm2/m256 sae (R132, R134). -/
  | vcvtph2psEvex512 (x : EvexOps EvexSrc512)
  /-- `EVEX.128.66.MAP6.W0 13 /r`: VCVTPH2PSX xmm1 k1 z, xmm2/m64/m16bcst (R140). -/
  | vcvtph2psxEvex128 (x : EvexOps EvexSrc)
  /-- `EVEX.256.66.MAP6.W0 13 /r`: VCVTPH2PSX ymm1 k1 z, xmm2/m128/m16bcst (R141). -/
  | vcvtph2psxEvex256 (x : EvexOps EvexSrc)
  /-- `EVEX.512.66.MAP6.W0 13 /r`: VCVTPH2PSX zmm1 k1 z, ymm2/m256/m16bcst sae (R142, R145). -/
  | vcvtph2psxEvex512 (x : EvexOps EvexSrc512)
  deriving DecidableEq, Repr

end Sys2Proof
end

