-- ==== Sys2Proof/WellFormed.lean ====
section
/-! DEFINITION. Which terms of Instr an encoding can spell. `AddrForm.wf` rules out the register numbers that
ModRM and SIB use for something else (30_encoding.md R69, R70); `Instr.wfIn` adds what Mode32 can spell (R62,
R66). The types of Syntax.lean rule out the rest. -/

namespace Sys2Proof

/-- The low three bits of a register number, the part that stands in ModRM or SIB. -/
def lowThree {n : Nat} (r : BitVec n) : BitVec 3 := r.extractLsb' 0 3

/-- `mod = 00b` has no displacement byte, and reads `rm` or `base` 101b as "no base" (R70). -/
def Disp.okWithBase (d : Disp) (r : BitVec 4) : Bool := d != .absent || lowThree r != 5#3

/-- An addressing form that ModRM and SIB can spell: without SIB, `rm` is not 100b (R69). -/
def AddrForm.wf : AddrForm → Bool
  | .base r d => lowThree r != 4#3 && d.okWithBase r
  | .disp32 _ => true
  | .sib _ _ b d => d.okWithBase b
  | .sibNoBase _ _ _ => true

/-- Only the registers 0 to 7 are named (R66). -/
def AddrForm.low8 : AddrForm → Bool
  | .base r _ => r.toNat < 8
  | .disp32 _ => true
  | .sib _ i b _ => i.toNat < 8 && b.toNat < 8
  | .sibNoBase _ i _ => i.toNat < 8

def VexSrc.wf : VexSrc → Bool
  | .reg _ => true
  | .mem a => a.wf

def VexSrc.low8 : VexSrc → Bool
  | .reg r => r.toNat < 8
  | .mem a => a.low8

def EvexSrc.wf : EvexSrc → Bool
  | .reg _ => true
  | .mem a | .memB a => a.wf

def EvexSrc.low8 : EvexSrc → Bool
  | .reg r => r.toNat < 8
  | .mem a | .memB a => a.low8

def EvexSrc512.wf : EvexSrc512 → Bool
  | .reg _ | .regSae _ => true
  | .mem a | .memB a => a.wf

def EvexSrc512.low8 : EvexSrc512 → Bool
  | .reg r | .regSae r => r.toNat < 8
  | .mem a | .memB a => a.low8

/-- A 67H prefix precedes the instruction (R62). -/
def Instr.p67 : Instr → Bool
  | .vcvtph2psVex128 x | .vcvtph2psVex256 x => x.p67
  | .vcvtph2psEvex128 x | .vcvtph2psEvex256 x | .vcvtph2psxEvex128 x | .vcvtph2psxEvex256 x => x.p67
  | .vcvtph2psEvex512 x | .vcvtph2psxEvex512 x => x.p67

/-- The instruction's memory operand, if it has one, can be spelled. -/
def Instr.wf : Instr → Bool
  | .vcvtph2psVex128 x | .vcvtph2psVex256 x => x.src.wf
  | .vcvtph2psEvex128 x | .vcvtph2psEvex256 x | .vcvtph2psxEvex128 x | .vcvtph2psxEvex256 x => x.src.wf
  | .vcvtph2psEvex512 x | .vcvtph2psxEvex512 x => x.src.wf

/-- The instruction names registers 0 to 7 only, as every operand of Mode32 does (R66). -/
def Instr.low8 : Instr → Bool
  | .vcvtph2psVex128 x | .vcvtph2psVex256 x => x.dst.toNat < 8 && x.src.low8
  | .vcvtph2psEvex128 x | .vcvtph2psEvex256 x | .vcvtph2psxEvex128 x | .vcvtph2psxEvex256 x =>
    x.dst.toNat < 8 && x.src.low8
  | .vcvtph2psEvex512 x | .vcvtph2psxEvex512 x => x.dst.toNat < 8 && x.src.low8

/-- Well-formed for a mode: spelled by an encoding that the mode admits. Mode32 refuses 67H (R62) and the
registers above 7 (R66). -/
def Instr.wfIn (m : Mode) (i : Instr) : Bool :=
  i.wf && match m with
    | .mode64 => true
    | .mode32 => !i.p67 && i.low8

end Sys2Proof
end

