-- ==== Sys2Proof/Decode.lean ====
section
/-! DEFINITION. The decoder, in the order of 30_encoding.md R79, and the encoder, from the same tables (R61 to
R70). The decoder takes the bytes from the first prefix byte on and gives the instruction with the bytes after
it. A byte sequence belongs to the row of spec/opcode_table.json whose mask and match it meets; the row's
constraints on W, `vvvv`, `V'`, `z` with `aaa = 000b`, and `b` with memory are the meaning's to judge (log 14). -/

namespace Sys2Proof

/-- The reasons of `refuse(reason)` in R62, R66, R73 to R75, R78 and R79. -/
inductive EncodingRefusal
  /-- The bytes spell none of the eight forms (R79, D36). Raised by the decoder. Safe. -/
  | notInScope
  /-- A segment-override prefix (R62, D22). Raised by the decoder. Safe. -/
  | segmentOverride
  /-- 67H in Mode32: 16-bit addressing (R44, R62, D22). Raised by the decoder and by the meanings. Safe. -/
  | addr16
  /-- EVEX P0[3] is not 0 or P1[2] is not 1 (R78, D19). Raised by the decoder. Safe. -/
  | evexReserved
  /-- `b = 1` with a register source and `L'L` not 10b under `require_10` (R75, D15). Raised by the decoder. Safe. -/
  | saeLen
  /-- `L'L = 11b` (R73, D19). Raised by the decoder. Safe. -/
  | evexLen
  /-- The stored `V'` is not 1 (R78, D19). Raised by the meanings. Safe. -/
  | evexVprime
  /-- `z = 1` with `aaa = 000b` (R74, D18). Raised by the meanings. Safe. -/
  | zWithoutMask
  /-- Mode32 with a stored B or R' that is not 1 (R66, D19). Raised by the decoder and by the meanings. Safe. -/
  | mode32Regs
  deriving DecidableEq, Repr

/-- What the decoder answers. -/
inductive Decoded
  /-- An instruction, and the bytes after it. -/
  | instr (i : Instr) (rest : List Byte)
  /-- `#UD`: an illegal legacy prefix precedes a VEX or EVEX prefix (R62, R150 row 7). -/
  | ud
  | refused (r : EncodingRefusal)
  /-- The bytes end before the instruction does. -/
  | truncated
  deriving DecidableEq, Repr

/-! ### Legacy prefixes (R62) -/

/-- ES, CS, SS, DS, FS and GS overrides. -/
def isSegmentOverride (b : Byte) : Bool :=
  b == 0x26#8 || b == 0x2E#8 || b == 0x36#8 || b == 0x3E#8 || b == 0x64#8 || b == 0x65#8

/-- LOCK, 66H, REPNE, REP, and REX in Mode64: the prefixes that raise `#UD` before VEX or EVEX. -/
def isUdPrefix (m : Mode) (b : Byte) : Bool :=
  b == 0xF0#8 || b == 0x66#8 || b == 0xF2#8 || b == 0xF3#8 || (m == .mode64 && b.extractLsb' 4 4 == 4#4)

/-- After a prefix that raises `#UD`: it does so when a VEX or EVEX prefix is what follows the prefixes
(R62, R84, R150 row 7; log 13). In Mode32, C4H and 62H are prefixes only when 11b follows (R66). DESIGN CHOICE (log 13):
the VEX prefix counted is the one the eight forms have, C4H; before C5H (R64) the bytes are refused as not in scope,
since the rows of R62 and of C5H (R79, R84) overlap there. DESIGN CHOICE (log 13): any number of further legacy
prefixes is passed over, repeated 67H, 67H in Mode32 and segment overrides among them; the first byte that raises `#UD`
or refuses decides. -/
def afterUdPrefix (m : Mode) : List Byte → Decoded
  | [] => .truncated
  | b :: rest =>
    if isUdPrefix m b || isSegmentOverride b || b == 0x67#8 then afterUdPrefix m rest
    else if b == 0xC4#8 || b == 0x62#8 then
      match m, rest with
      | .mode64, _ => .ud
      | .mode32, [] => .truncated
      | .mode32, n :: _ => if n.extractLsb' 6 2 == 3#2 then .ud else .refused .notInScope
    else .refused .notInScope

/-! ### ModRM, SIB and displacement (R68 to R70) -/

/-- The 4-byte displacement, little-endian (R40, R70). -/
def takeD32 : List Byte → Option (BitVec 32 × List Byte)
  | b0 :: b1 :: b2 :: b3 :: rest => some (b3 ++ b2 ++ b1 ++ b0, rest)
  | _ => none

/-- The displacement that `mod` calls for after a base register (R70). -/
def takeDisp (mod : BitVec 2) (bs : List Byte) : Option (Disp × List Byte) :=
  if mod == 0#2 then some (.absent, bs)
  else if mod == 1#2 then
    match bs with
    | [] => none
    | b :: rest => some (.d8 b, rest)
  else (takeD32 bs).map fun p => (.d32 p.1, p.2)

/-- The memory operand of a ModRM byte with `mod != 11b`; `x` and `b` are the prefix bits un-inverted. The
tests on `rm` and `base` look at the three bits in the byte only (R70). `none`: the bytes end. -/
def takeAddr (x b : Bool) (modrm : Byte) (bs : List Byte) : Option (AddrForm × List Byte) :=
  let mod := modrm.extractLsb' 6 2
  let rm := modrm.extractLsb' 0 3
  if rm == 4#3 then
    match bs with
    | [] => none
    | sib :: rest =>
      let scale := sib.extractLsb' 6 2
      let index := BitVec.ofBool x ++ sib.extractLsb' 3 3
      let base := sib.extractLsb' 0 3
      if base == 5#3 && mod == 0#2 then
        (takeD32 rest).map fun p => (.sibNoBase scale index p.1, p.2)
      else (takeDisp mod rest).map fun p => (.sib scale index (BitVec.ofBool b ++ base) p.1, p.2)
  else if rm == 5#3 && mod == 0#2 then (takeD32 bs).map fun p => (.disp32 p.1, p.2)
  else (takeDisp mod bs).map fun p => (.base (BitVec.ofBool b ++ rm) p.1, p.2)

/-! ### The two prefixes (R63, R65) and the procedure (R79) -/

/-- In Mode32 the byte after C4H or 62H must have 11b on top, or the bytes are LES or BOUND (R66). -/
def isOldInstruction (m : Mode) (b : Byte) : Bool := m == .mode32 && b.extractLsb' 6 2 != 3#2

/-- R79 for a VEX form, after C4H. -/
def decodeVex (m : Mode) (p67 : Bool) : List Byte → Decoded
  | b1 :: b2 :: op :: modrm :: rest =>
    if isOldInstruction m b1 then .refused .notInScope
    else if b1.extractLsb' 0 5 != 2#5 || b2.extractLsb' 0 2 != 1#2 || op != 0x13#8 then .refused .notInScope
    else
      let r := !b1.getLsbD 7
      let x := !b1.getLsbD 6
      let b := !b1.getLsbD 5
      if m == .mode32 && b then .refused .mode32Regs
      else
        let form := if b2.getLsbD 2 then Instr.vcvtph2psVex256 else Instr.vcvtph2psVex128
        let ops (src : VexSrc) : VexOps :=
          { p67 := p67, dst := BitVec.ofBool r ++ modrm.extractLsb' 3 3, w := b2.getLsbD 7,
            vvvv := b2.extractLsb' 3 4, src := src }
        if modrm.extractLsb' 6 2 == 3#2 then
          .instr (form (ops (.reg (BitVec.ofBool b ++ modrm.extractLsb' 0 3)))) rest
        else
          match takeAddr x b modrm rest with
          | none => .truncated
          | some (a, rest') => .instr (form (ops (.mem a))) rest'
  | b1 :: _ => if isOldInstruction m b1 then .refused .notInScope else .truncated
  | [] => .truncated

/-- The row of an EVEX form of 128 or 256 bits, by opcode map and length (R60). -/
def evexRow (map6 : Bool) (l256 : Bool) : EvexOps EvexSrc → Instr :=
  match map6, l256 with
  | false, false => .vcvtph2psEvex128
  | false, true => .vcvtph2psEvex256
  | true, false => .vcvtph2psxEvex128
  | true, true => .vcvtph2psxEvex256

/-- The row of an EVEX form of 512 bits, by opcode map (R60). -/
def evexRow512 (map6 : Bool) : EvexOps EvexSrc512 → Instr :=
  if map6 then .vcvtph2psxEvex512 else .vcvtph2psEvex512

/-- R79 for an EVEX form, after 62H. -/
def decodeEvex (m : Mode) (pol : SaeLenPolicy) (p67 : Bool) : List Byte → Decoded
  | p0 :: p1 :: p2 :: op :: modrm :: rest =>
    let map := p0.extractLsb' 0 3
    let len := p2.extractLsb' 5 2
    let isReg := modrm.extractLsb' 6 2 == 3#2
    let sae := isReg && p2.getLsbD 4
    let z := p2.getLsbD 7
    let vp := p2.getLsbD 3
    let aaa := p2.extractLsb' 0 3
    if isOldInstruction m p0 then .refused .notInScope
    else if p0.getLsbD 3 || !p1.getLsbD 2 then .refused .evexReserved
    else if (map != 2#3 && map != 6#3) || p1.extractLsb' 0 2 != 1#2 || op != 0x13#8 then .refused .notInScope
    else if sae && len != 2#2 && pol == .require10 then .refused .saeLen
    else if !sae && len == 3#2 then .refused .evexLen
    else
      let r := !p0.getLsbD 7
      let x := !p0.getLsbD 6
      let b := !p0.getLsbD 5
      let r' := !p0.getLsbD 4
      if m == .mode32 && (b || r') && vp && !(z && aaa == 0#3) then .refused .mode32Regs
      else
        let ops {σ : Type} (src : σ) : EvexOps σ :=
          { p67 := p67, dst := BitVec.ofBool r' ++ (BitVec.ofBool r ++ modrm.extractLsb' 3 3), w := p1.getLsbD 7,
            vvvv := p1.extractLsb' 3 4, z := z, vp := vp, aaa := aaa, src := src }
        if isReg then
          let src : BitVec 5 := BitVec.ofBool x ++ (BitVec.ofBool b ++ modrm.extractLsb' 0 3)
          if sae then .instr (evexRow512 (map == 6#3) (ops (.regSae src))) rest
          else if len == 2#2 then .instr (evexRow512 (map == 6#3) (ops (.reg src))) rest
          else .instr (evexRow (map == 6#3) (len == 1#2) (ops (.reg src))) rest
        else
          match takeAddr x b modrm rest with
          | none => .truncated
          | some (a, rest') =>
            if len == 2#2 then
              .instr (evexRow512 (map == 6#3) (ops (if p2.getLsbD 4 then .memB a else .mem a))) rest'
            else
              .instr (evexRow (map == 6#3) (len == 1#2) (ops (if p2.getLsbD 4 then .memB a else .mem a))) rest'
  | p0 :: _ => if isOldInstruction m p0 then .refused .notInScope else .truncated
  | [] => .truncated

/-- R79 after an optional 67H. -/
def decodeBody (m : Mode) (pol : SaeLenPolicy) (p67 : Bool) : List Byte → Decoded
  | [] => .truncated
  | b :: rest =>
    if isSegmentOverride b then .refused .segmentOverride
    else if isUdPrefix m b then afterUdPrefix m rest
    else if b == 0xC4#8 then decodeVex m p67 rest
    else if b == 0x62#8 then decodeEvex m pol p67 rest
    else .refused .notInScope

/-- The decoder, total on any bytes (R79): a first 67H selects 32-bit addressing in Mode64 and is refused in
Mode32; a second one is no prefix (R62). -/
def decode (m : Mode) (pol : SaeLenPolicy) : List Byte → Decoded
  | [] => .truncated
  | b :: rest =>
    if b == 0x67#8 then
      match m with
      | .mode32 => .refused .addr16
      | .mode64 => decodeBody m pol true rest
    else decodeBody m pol false (b :: rest)

/-! ### Length (R83) -/

/-- Displacement bytes (R70). -/
def Disp.size : Disp → Nat
  | .absent => 0
  | .d8 _ => 1
  | .d32 _ => 4

/-- SIB and displacement bytes: `nsib + ndisp` of R83. -/
def AddrForm.size : AddrForm → Nat
  | .base _ d => d.size
  | .disp32 _ => 4
  | .sib _ _ _ d => 1 + d.size
  | .sibNoBase _ _ _ => 5

def VexSrc.size : VexSrc → Nat
  | .reg _ => 0
  | .mem a => a.size

def EvexSrc.size : EvexSrc → Nat
  | .reg _ => 0
  | .mem a | .memB a => a.size

def EvexSrc512.size : EvexSrc512 → Nat
  | .reg _ | .regSae _ => 0
  | .mem a | .memB a => a.size

/-- Length of a VEX form: `nprefix + 3 + 1 + 1 + nsib + ndisp` (R83). -/
def VexOps.length (x : VexOps) : Nat := x.p67.toNat + 3 + 1 + 1 + x.src.size

/-- Length of an EVEX form whose source takes `n` bytes after ModRM: `nprefix + 4 + 1 + 1 + nsib + ndisp` (R83). -/
def evexLength (p67 : Bool) (n : Nat) : Nat := p67.toNat + 4 + 1 + 1 + n

/-- Instruction length in bytes (R83). -/
def Instr.length : Instr → Nat
  | .vcvtph2psVex128 x | .vcvtph2psVex256 x => x.length
  | .vcvtph2psEvex128 x | .vcvtph2psEvex256 x | .vcvtph2psxEvex128 x | .vcvtph2psxEvex256 x =>
    evexLength x.p67 x.src.size
  | .vcvtph2psEvex512 x | .vcvtph2psxEvex512 x => evexLength x.p67 x.src.size

/-! ### The encoder -/

/-- What operand 2 puts into the encoding: `mod`, `rm`, the prefix bits X and B un-inverted, and the bytes
after ModRM. -/
structure RmFields where
  mod  : BitVec 2
  rm   : BitVec 3
  x    : Bool
  b    : Bool
  tail : List Byte
  deriving DecidableEq, Repr

/-- A 4-byte displacement in address order (R40, R70). -/
def d32Bytes (v : BitVec 32) : List Byte :=
  [v.extractLsb' 0 8, v.extractLsb' 8 8, v.extractLsb' 16 8, v.extractLsb' 24 8]

/-- `mod` for a displacement after a base register (R70). -/
def Disp.mod : Disp → BitVec 2
  | .absent => 0#2
  | .d8 _ => 1#2
  | .d32 _ => 2#2

def Disp.bytes : Disp → List Byte
  | .absent => []
  | .d8 v => [v]
  | .d32 v => d32Bytes v

/-- The SIB byte (R69). -/
def sibByte (scale : BitVec 2) (index base : BitVec 3) : Byte := scale ++ index ++ base

/-- R69 and R70, read from the form to the bits. -/
def AddrForm.fields : AddrForm → RmFields
  | .base r d => { mod := d.mod, rm := lowThree r, x := false, b := r.getLsbD 3, tail := d.bytes }
  | .disp32 v => { mod := 0#2, rm := 5#3, x := false, b := false, tail := d32Bytes v }
  | .sib s i b d =>
    { mod := d.mod, rm := 4#3, x := i.getLsbD 3, b := b.getLsbD 3,
      tail := sibByte s (lowThree i) (lowThree b) :: d.bytes }
  | .sibNoBase s i v =>
    { mod := 0#2, rm := 4#3, x := i.getLsbD 3, b := false, tail := sibByte s (lowThree i) 5#3 :: d32Bytes v }

/-- A register of operand 2: `X ++ B ++ rm` (R72). -/
def regFields (r : BitVec 5) : RmFields :=
  { mod := 3#2, rm := lowThree r, x := r.getLsbD 4, b := r.getLsbD 3, tail := [] }

def VexSrc.fields : VexSrc → RmFields
  | .reg r => regFields (r.setWidth 5)
  | .mem a => a.fields

def EvexSrc.fields : EvexSrc → RmFields
  | .reg r => regFields r
  | .mem a | .memB a => a.fields

def EvexSrc512.fields : EvexSrc512 → RmFields
  | .reg r | .regSae r => regFields r
  | .mem a | .memB a => a.fields

/-- The bit `EVEX.b` (R75). -/
def EvexSrc.bBit : EvexSrc → Bool
  | .reg _ | .mem _ => false
  | .memB _ => true

def EvexSrc512.bBit : EvexSrc512 → Bool
  | .reg _ | .mem _ => false
  | .regSae _ | .memB _ => true

/-- The ModRM byte (R68). -/
def modrmByte (f : RmFields) (reg : BitVec 3) : Byte := f.mod ++ reg ++ f.rm

/-- A VEX form (R61, R63); `l` is the field L. -/
def encodeVex (l : Bool) (x : VexOps) : List Byte :=
  let f := x.src.fields
  (if x.p67 then [0x67#8] else []) ++
  [ 0xC4#8,
    BitVec.ofBool (!x.dst.getLsbD 3) ++ BitVec.ofBool (!f.x) ++ BitVec.ofBool (!f.b) ++ 2#5,
    BitVec.ofBool x.w ++ x.vvvv ++ BitVec.ofBool l ++ 1#2,
    0x13#8,
    modrmByte f (lowThree x.dst) ] ++ f.tail

/-- An EVEX form (R61, R65); `map` is the opcode map, `len` the field `L'L`, `b` the bit `EVEX.b`. -/
def encodeEvex {σ : Type} (map : BitVec 3) (len : BitVec 2) (b : Bool) (f : RmFields) (x : EvexOps σ) : List Byte :=
  (if x.p67 then [0x67#8] else []) ++
  [ 0x62#8,
    BitVec.ofBool (!x.dst.getLsbD 3) ++ BitVec.ofBool (!f.x) ++ BitVec.ofBool (!f.b) ++
      BitVec.ofBool (!x.dst.getLsbD 4) ++ 0#1 ++ map,
    BitVec.ofBool x.w ++ x.vvvv ++ 1#1 ++ 1#2,
    BitVec.ofBool x.z ++ len ++ BitVec.ofBool b ++ BitVec.ofBool x.vp ++ x.aaa,
    0x13#8,
    modrmByte f (lowThree x.dst) ] ++ f.tail

/-- The encoder: the bytes of an instruction in address order (R60, R61). -/
def encode : Instr → List Byte
  | .vcvtph2psVex128 x => encodeVex false x
  | .vcvtph2psVex256 x => encodeVex true x
  | .vcvtph2psEvex128 x => encodeEvex 2#3 0#2 x.src.bBit x.src.fields x
  | .vcvtph2psEvex256 x => encodeEvex 2#3 1#2 x.src.bBit x.src.fields x
  | .vcvtph2psEvex512 x => encodeEvex 2#3 2#2 x.src.bBit x.src.fields x
  | .vcvtph2psxEvex128 x => encodeEvex 6#3 0#2 x.src.bBit x.src.fields x
  | .vcvtph2psxEvex256 x => encodeEvex 6#3 1#2 x.src.bBit x.src.fields x
  | .vcvtph2psxEvex512 x => encodeEvex 6#3 2#2 x.src.bBit x.src.fields x

/-! ### One word of the opcode table -/

/-- The longest instruction, in bytes (R83). -/
def maxLength : Nat := 12

/-- The bytes, in address order, of an instruction whose bits are `w`: the low byte of `w` is the first.
`nbits` of it are given and the bits above are zero, up to the longest instruction. -/
def tableWordBytes (nbits w : Nat) : List Byte :=
  (List.range (max (nbits / 8) maxLength)).map fun i => BitVec.ofNat 8 ((w % 2 ^ nbits) / 2 ^ (8 * i))

/-- The instruction that the decoder reads from a word of the opcode table, in Mode64 with the default
`sae_len_policy`. -/
def decodeTableWord (nbits w : Nat) : Option Instr :=
  match decode .mode64 .require10 (tableWordBytes nbits w) with
  | .instr i _ => some i
  | _ => none

end Sys2Proof
end

