-- ==== Sys2Proof/Machine/State.lean ====
section
/-! DEFINITION. The state of the machine as plain data: everything 10_state.md gives it, the configuration of
00_scope.md R6, and the reasons a step can stop. -/

namespace Sys2Proof.Machine

/-! ### Forms -/

/-- The vector length of the destination (30_encoding.md R73). -/
inductive VecLen
  | v128
  | v256
  | v512
  deriving DecidableEq, Repr

/-- The prefix kind of a form. -/
inductive PrefixKind
  | vex
  | evex
  deriving DecidableEq, Repr

/-- A row of R60: prefix kind, mnemonic and vector length. -/
structure Form where
  enc : PrefixKind
  /-- VCVTPH2PSX, which has the broadcast source and signals Denormal (R75, R107). -/
  psx : Bool
  vl  : VecLen
  deriving DecidableEq, Repr

/-! ### The oracle's answers -/

/-- The faults that the oracle of 20_memory.md R41 may answer (R155 to R157). -/
inductive MemFault
  | ss
  | gp
  | pf (code : BitVec 32)
  | ac
  deriving DecidableEq, Repr

/-- One byte of one operand read, as the oracle sees it (R41; log 3): the machine state (through the turn of the run),
the instruction form, the linear address and the size of the read, and the address of the byte. -/
structure ReadKey where
  turn : Nat
  form : Form
  addr : Nat
  size : Nat
  byte : Nat
  deriving DecidableEq, Repr

/-! ### Stops -/

/-- The exceptions of 60_exceptions.md R160, and what each records. A fault ends the step; no handler is
entered (R164). Everything else in the fault outcome is as before the step (R165; `faultState`, log 12). -/
inductive Fault
  /-- `#UD`, for a cause of R150 rows 1 to 7. Raised by every meaning, and by step for an illegal prefix. Safe. -/
  | ud
  /-- `#NM`, CR0.TS is set (R154). Raised by every meaning. Safe. -/
  | nm
  /-- `#SS(0)`, an answer of the oracle (R155). Raised by the operand read. Safe. -/
  | ss
  /-- `#GP(0)`, an answer of the oracle (R155). Raised by the operand read. Safe. -/
  | gp
  /-- `#PF(code)`, an answer of the oracle, with the faulting linear address (R156). Raised by the operand
  read, and for an address that is not mapped (log 1). Safe. -/
  | pf (code : BitVec 32) (addr : Quad)
  /-- `#AC(0)`, an answer of the oracle to an EVEX form (R157). Raised by the operand read. Safe. -/
  | ac
  /-- `#XM`, an unmasked SIMD floating-point exception with `osxmmexcpt` (R109, R158); what MXCSR then holds
  (log 5). Raised by every meaning. Safe. -/
  | xm (mxcsr : BitVec 32)
  /-- `#UD` for the same cause without `osxmmexcpt` (R109, R150 row 9, R158). Raised by every meaning. Safe. -/
  | udSimd (mxcsr : BitVec 32)
  deriving DecidableEq, Repr

/-- Why the model gives an input no meaning. Every one is safe: the model stops where the chip may go on. -/
inductive Refusal
  /-- An instruction whose meaning is not written. Raised by exec's refused arms (there is none). Safe. -/
  | notModelled (mnemonic : String)
  /-- `refuse(reason)` of 30_encoding.md R79. Raised by step and by the meanings, see `EncodingRefusal`. Safe. -/
  | encoding (r : EncodingRefusal)
  /-- A memory operand runs past the top of the address space (20_memory.md R45). Raised by the meanings. Safe. -/
  | operandPastTop
  /-- The instruction's bytes run past the top of the address space (10_state.md R28). Raised by step. Safe. -/
  | fetchPastTop
  /-- Memory lists no byte where the instruction goes on (log 16). Raised by step. Safe. -/
  | fetchUnlisted
  /-- More prefix bytes than an instruction can have (30_encoding.md R83, D35; log 16). Raised by step. Safe. -/
  | fetchTooLong
  deriving DecidableEq, Repr

/-- The control bits and registers of 10_state.md R30. No form writes them (R115). -/
structure Control where
  /-- CR0.TS; `ts_clear` is its negation (R154). -/
  cr0Ts         : Bool
  /-- CR0.AM (R157). -/
  cr0Am         : Bool
  /-- CR4.OSXSAVE (R153). -/
  cr4Osxsave    : Bool
  /-- CR4.OSXMMEXCPT, `osxmmexcpt` (R158). -/
  cr4Osxmmexcpt : Bool
  /-- XCR0 (R153). -/
  xcr0          : Quad
  /-- The current privilege level (R157, R168). -/
  cpl           : BitVec 2
  deriving DecidableEq, Repr

structure State where
  /-- The configuration of R6; no step changes it (log 9). -/
  cfg    : CpuConfig
  /-- Control state (R30). -/
  ctl    : Control
  /-- Vector registers (R20, R21). -/
  zmm    : Vector VReg 32
  /-- Opmask registers (R23). -/
  k      : Vector Quad 8
  /-- MXCSR (R25). -/
  mxcsr  : BitVec 32
  /-- The status flags, EFLAGS or RFLAGS (R26). -/
  rflags : Quad
  /-- General registers (R29). -/
  gpr    : Vector Quad 16
  /-- The instruction pointer (R28). -/
  pc     : Quad
  /-- The faulting linear address of the last page fault (R156). -/
  cr2    : Quad
  /-- Where a run ends normally (R184). -/
  endPc  : Quad
  /-- Memory: the bytes that are mapped, addresses strictly rising (R31, log 1). -/
  mem    : List Host.Cell
  /-- The reads that the oracle answers with a fault, byte by byte, no key twice (R41, log 3). -/
  denied : List (ReadKey × MemFault)
  /-- THE MODEL'S OWN: the turn of the run, advanced by every instruction that completes, so that the oracle may answer
  a later read otherwise (R41; log 3), and by every SIMD floating-point fault (log 5). -/
  turn   : Nat
  deriving DecidableEq, Repr

/-- The canonical form of memory: addresses strictly rising and inside the 64-bit space. An unlisted address
reads as no value (log 1), so no listed byte can equal it. -/
abbrev Memory.wf (m : List Host.Cell) : Prop := m.Pairwise (fun a b => a.1 < b.1) ∧ ∀ c ∈ m, c.1 < 2 ^ 64

/-- The configuration at reset (log 7): the default configuration of 95_test_vectors.md, whose
conversion is R104's on NaN inputs too (log 18). -/
def resetConfig : CpuConfig :=
  { mode := .mode64, f16c := true, avx512 := some { vl := true, fp16 := true }, kw := .w64,
    saeLenPolicy := .require10, evexAc := true, nanResults := [] }

/-- Control state at reset (log 6): the operating system has not yet enabled the vector state (R33). -/
def resetControl : Control :=
  { cr0Ts := false, cr0Am := false, cr4Osxsave := false, cr4Osxmmexcpt := false, xcr0 := 1#64, cpl := 0#2 }

/-- The machine right after reset: MXCSR, vector and opmask registers as R33 gives them, the rest as log 6 and
log 7 name it, memory with nothing listed. -/
def State.reset : State :=
  { cfg := resetConfig
    ctl := resetControl
    zmm := Vector.replicate 32 0#512
    k := Vector.replicate 8 0#64
    mxcsr := 0x1F80#32
    rflags := 2#64
    gpr := Vector.replicate 16 0#64
    pc := 0xFFFFFFF0#64
    cr2 := 0#64
    endPc := 0#64
    mem := []
    denied := []
    turn := 0 }

end Sys2Proof.Machine

/-! ### Free values. They take the whole state: nothing relates the values of two states. -/

namespace Sys2Proof
open Machine

/-- FREE VALUE (log 5). The bits IE and DE that hardware may have set in MXCSR when an unmasked SIMD
floating-point exception is reported at a state, by an instruction of a form (40_conversion.md R109, D14). -/
opaque Config.simdFaultFlags : State → Form → BitVec 2

/-- FREE VALUE (log 2). The page-fault error code the oracle answers at a state to a form's read of so many bytes
at a linear address, when a byte of it is unlisted (20_memory.md R41, 60_exceptions.md R156). -/
opaque Config.unmappedFaultCode : State → Form → (addr size : Nat) → BitVec 32

end Sys2Proof
end

