-- ==== Sys2Proof/Machine/Ops.lean ====
section
/-! DEFINITION. The named operations over memory and registers, fetching, taking an exception, and the launch.
There is no return from an exception: the spec describes none (60_exceptions.md R166). -/

namespace Sys2Proof.Machine

/-! ### Memory (20_memory.md R40, R41) -/

/-- The byte listed at an address; `none` where nothing is mapped (log 1). -/
def Memory.read : List Host.Cell → Nat → Option Byte
  | [], _ => none
  | (a, b) :: m, at_ => if a = at_ then some b else Memory.read m at_

/-- List a byte at an address, keeping the addresses strictly rising. No instruction writes memory (R42): this
is how a program and its data are placed. -/
def Memory.write : List Host.Cell → Nat → Byte → List Host.Cell
  | [], at_, v => [(at_, v)]
  | (a, b) :: m, at_, v =>
    if at_ < a then (at_, v) :: (a, b) :: m
    else if at_ = a then (a, v) :: m
    else (a, b) :: Memory.write m at_ v

/-- List bytes at rising addresses from `at_` on. -/
def Memory.writeBytes (m : List Host.Cell) (at_ : Nat) : List Byte → List Host.Cell
  | [] => m
  | b :: bs => Memory.writeBytes (Memory.write m at_ b) (at_ + 1) bs

/-- What the oracle answers at byte `x` of a form's read of `n` bytes at `a`, when it denies it (R41, log 3). -/
def denialAt (s : State) (f : Form) (a n x : Nat) : Option MemFault :=
  (s.denied.find? fun d => d.1 == { turn := s.turn, form := f, addr := a, size := n, byte := x }).map Prod.snd

/-- The first address past the address space of the mode (R31). -/
def State.top (s : State) : Nat := 2 ^ s.cfg.mode.addrBits

/-! ### Registers -/

/-- The bits of a vector register that exist: the low MAXVL (R20, log 10). -/
def State.vecMask (s : State) (v : VReg) : VReg :=
  if s.cfg.hasAvx512F then v else (v.setWidth 256).setWidth 512

/-- `zmm[i]` (R11, R20). -/
def State.readVec (s : State) (i : BitVec 5) : VReg := s.vecMask (s.zmm[i.toNat]'i.isLt)

/-- `zmm[i] <- v` (R11, R20). -/
def State.writeVec (s : State) (i : BitVec 5) (v : VReg) : State :=
  { s with zmm := s.zmm.set i.toNat (s.vecMask v) i.isLt }

/-- `k[i]` (R11, R23): the low KW bits exist (log 10). -/
def State.readMask (s : State) (i : BitVec 3) : Quad :=
  match s.cfg.kw with
  | .w16 => ((s.k[i.toNat]'i.isLt).setWidth 16).setWidth 64
  | .w64 => s.k[i.toNat]'i.isLt

/-- `gpr[i]` (R11, R29). -/
def State.readGpr (s : State) (i : BitVec 4) : Quad := s.gpr[i.toNat]'i.isLt

/-- `pc + len` in the address width of the mode (R28). -/
def State.pcAfter (s : State) (len : Nat) : Quad := BitVec.ofNat 64 ((s.pc.toNat + len) % s.top)

/-- `pc <- pc + len` (R28). -/
def State.advance (s : State) (len : Nat) : State := { s with pc := s.pcAfter len }

/-- `mxcsr <- v`. -/
def State.setMxcsr (s : State) (v : BitVec 32) : State := { s with mxcsr := v }

/-- The next turn of the run (log 3). -/
def State.nextTurn (s : State) : State := { s with turn := s.turn + 1 }

/-! ### Stopping, and taking an exception -/

/-- Why a step stops before its write-back. -/
inductive Stop
  | fault (f : Fault)
  | refused (r : Refusal)
  deriving DecidableEq, Repr

/-- The outcome of a step that stops. -/
def Stop.outcome : Stop → Host.Outcome State Fault Refusal
  | .fault f => .fault f
  | .refused r => .refused r

/-- The exceptions by mnemonic (R160). -/
inductive Exception
  | ud
  | nm
  | ss
  | gp
  | pf
  | ac
  | xm
  deriving DecidableEq, Repr

/-- The exception a fault reports. -/
def Fault.exception : Fault → Exception
  | .ud | .udSimd _ => .ud
  | .nm => .nm
  | .ss => .ss
  | .gp => .gp
  | .pf _ _ => .pf
  | .ac => .ac
  | .xm _ => .xm

/-- Vector numbers (R160). -/
def Exception.vector : Exception → Nat
  | .ud => 6
  | .nm => 7
  | .ss => 12
  | .gp => 13
  | .pf => 14
  | .ac => 17
  | .xm => 19

/-- Error codes (R160): 0 for `#SS`, `#GP` and `#AC`, the page-fault code for `#PF`, none for the rest. The spec gives
no width of a code: its 32 bits are PRESUMED, the family's (log 11). -/
def Fault.errorCode : Fault → Option (BitVec 32)
  | .ss | .gp | .ac => some 0#32
  | .pf code _ => some code
  | .ud | .udSimd _ | .nm | .xm _ => none

/-- TAKING AN EXCEPTION: the state of the fault outcome (R165). All is as before the step, but for the MXCSR
flag bits of a SIMD floating-point exception (R109), with which the model's own turn is over (log 5), and the recorded
address of a page fault (R156). The spec describes no handler entry (R164): vector, saved pc and mode are not
touched, and no step goes on from here. -/
def faultState (f : Fault) (s : State) : State :=
  match f with
  | .xm m | .udSimd m => (s.setMxcsr m).nextTurn
  | .pf _ a => { s with cr2 := a }
  | .ud | .nm | .ss | .gp | .ac => s

/-! ### Fetching (10_state.md R28, R31; log 16) -/

/-- The architecture's limit on an instruction's bytes, prefixes included (R83, D35). -/
def fetchLimit : Nat := 15

/-- The bytes listed from `a` on, at most `n`, below `top`. -/
def fetchBytes (m : List Host.Cell) (top : Nat) : Nat → Nat → List Byte
  | 0, _ => []
  | n + 1, a =>
    if a < top then
      match Memory.read m a with
      | none => []
      | some b => b :: fetchBytes m top n (a + 1)
    else []

/-- The instruction bytes at `pc`. -/
def State.fetch (s : State) : List Byte := fetchBytes s.mem s.top fetchLimit s.pc.toNat

/-- Why the bytes at `pc` end before the instruction does. -/
def State.shortFetch (s : State) : Refusal :=
  if s.fetch.length = fetchLimit then .fetchTooLong
  else if s.pc.toNat + s.fetch.length < s.top then .fetchUnlisted
  else .fetchPastTop

/-! ### Launch and the end of a run -/

/-- What software must have done before a form executes instead of faulting (70_reset_and_hazards.md R181
items 2 to 4): the launch premises of R180, which no instruction in scope can establish (log 8). -/
def State.launch (s : State) : State :=
  { s with ctl := { s.ctl with cr0Ts := false, cr4Osxsave := true, cr4Osxmmexcpt := true,
                               xcr0 := s.ctl.xcr0 ||| 0xE6#64 } }

/-- A run has ended normally: `pc` is the designated end address (R184). -/
def State.ended (s : State) : Bool := s.pc == s.endPc

end Sys2Proof.Machine
end

