-- ==== Sys2Proof/Machine/Flags.lean ====
section
/-! DEFINITION. MXCSR (10_state.md R25, R27) and the reporting of SIMD floating-point exceptions
(40_conversion.md R106 to R111). The status flags of RFLAGS are written by no form (R26). -/

namespace Sys2Proof.Machine

/-- `MXCSR.IE`, bit 0 (R25). -/
def State.ie (s : State) : Bool := s.mxcsr.getLsbD 0
/-- `MXCSR.DE`, bit 1 (R25). -/
def State.de (s : State) : Bool := s.mxcsr.getLsbD 1
/-- `MXCSR.IM`, bit 7: the invalid exception is masked (R25). -/
def State.im (s : State) : Bool := s.mxcsr.getLsbD 7
/-- `MXCSR.DM`, bit 8: the denormal exception is masked (R25). -/
def State.dm (s : State) : Bool := s.mxcsr.getLsbD 8

/-- The signals of an instruction: Invalid and Denormal, each the OR over its selected lanes (R108, R162). -/
structure Signals where
  inv : Bool
  den : Bool
  deriving DecidableEq, Repr

/-- A signalled exception is unmasked (R109). -/
def State.unmasked (s : State) (g : Signals) : Bool := (g.inv && !s.im) || (g.den && !s.dm)

/-- The sticky flags after masked exceptions: IE and DE are only ever set (R108). -/
def stickyFlags (mxcsr : BitVec 32) (g : Signals) : BitVec 32 :=
  mxcsr ||| (BitVec.ofBool g.den ++ BitVec.ofBool g.inv).setWidth 32

/-- MXCSR after an unmasked exception: each of IE and DE is at least its old value, and nothing else is known
(R109; a free value, log 5). -/
def State.faultMxcsr (s : State) (f : Form) : BitVec 32 := s.mxcsr ||| (Config.simdFaultFlags s f).setWidth 32

/-- The exception an unmasked SIMD floating-point exception raises: `#XM`, or `#UD` without `osxmmexcpt`
(R109, R158). -/
def State.simdFault (s : State) (f : Form) : Fault :=
  if s.ctl.cr4Osxmmexcpt then .xm (s.faultMxcsr f) else .udSimd (s.faultMxcsr f)

end Sys2Proof.Machine
end

