-- ==== Sys2Proof/Machine/Operands.lean ====
section
/-! DEFINITION. The forms, their operands, and the checks and reads that come before the conversion: CPUID and
operating-system enabling (00_scope.md R2, 60_exceptions.md R150 to R154), the effective address (20_memory.md
R44, R45; 30_encoding.md R81, R82), the oracle's answers (R41, R155 to R157) and the source operand (R72, R42). -/

namespace Sys2Proof.Machine

/-! ### Forms -/

/-- `VL`. -/
def VecLen.bits : VecLen → Nat
  | .v128 => 128
  | .v256 => 256
  | .v512 => 512

/-- `KL = VL/32`, the number of lanes. -/
def VecLen.lanes : VecLen → Nat
  | .v128 => 4
  | .v256 => 8
  | .v512 => 16

/-- `VL/16`, the bytes of a memory source that is not broadcast (R42). -/
def VecLen.srcBytes : VecLen → Nat
  | .v128 => 8
  | .v256 => 16
  | .v512 => 32

/-- The CPUID flags the form requires are all true (R2, R150 row 5). -/
def Form.cpuidOk (f : Form) (c : CpuConfig) : Bool :=
  match f.enc with
  | .vex => c.f16c
  | .evex => (if f.psx then c.hasAvx512Fp16 else c.hasAvx512F) && (f.vl == .v512 || c.hasAvx512VL)

/-- `os_state_ok(form)` (R153): CR4.OSXSAVE, XCR0[2:1] = 11b, and XCR0[7:5] = 111b for the EVEX forms. -/
def Control.osStateOk (c : Control) (e : PrefixKind) : Bool :=
  c.cr4Osxsave && c.xcr0.extractLsb' 1 2 == 3#2 &&
    match e with
    | .vex => true
    | .evex => c.xcr0.extractLsb' 5 3 == 7#3

/-! ### Operands, in one shape for all forms -/

/-- Operand 2. -/
inductive Source
  /-- A vector register; `sae` when `EVEX.b = 1` (R75). -/
  | reg (r : BitVec 5) (sae : Bool)
  /-- Memory; `b` is `EVEX.b` (R75). -/
  | mem (a : AddrForm) (b : Bool)
  deriving DecidableEq, Repr

/-- The decoded fields of any form, and its length. A VEX form has no mask: every lane is selected (R24). -/
structure Operands where
  p67  : Bool
  dst  : BitVec 5
  w    : Bool
  vvvv : BitVec 4
  z    : Bool
  vp   : Bool
  aaa  : BitVec 3
  src  : Source
  len  : Nat
  low8 : Bool
  deriving DecidableEq, Repr

def VexSrc.source : VexSrc → Source
  | .reg r => .reg (r.setWidth 5) false
  | .mem a => .mem a false

def EvexSrc.source : EvexSrc → Source
  | .reg r => .reg r false
  | .mem a => .mem a false
  | .memB a => .mem a true

def EvexSrc512.source : EvexSrc512 → Source
  | .reg r => .reg r false
  | .regSae r => .reg r true
  | .mem a => .mem a false
  | .memB a => .mem a true

def VexOps.operands (x : VexOps) : Operands :=
  { p67 := x.p67, dst := x.dst.setWidth 5, w := x.w, vvvv := x.vvvv, z := false, vp := true, aaa := 0#3,
    src := VexSrc.source x.src, len := x.length, low8 := x.dst.toNat < 8 && x.src.low8 }

def EvexOps.operands (x : EvexOps EvexSrc) : Operands :=
  { p67 := x.p67, dst := x.dst, w := x.w, vvvv := x.vvvv, z := x.z, vp := x.vp, aaa := x.aaa,
    src := EvexSrc.source x.src, len := evexLength x.p67 x.src.size, low8 := x.dst.toNat < 8 && x.src.low8 }

def EvexOps.operands512 (x : EvexOps EvexSrc512) : Operands :=
  { p67 := x.p67, dst := x.dst, w := x.w, vvvv := x.vvvv, z := x.z, vp := x.vp, aaa := x.aaa,
    src := EvexSrc512.source x.src, len := evexLength x.p67 x.src.size, low8 := x.dst.toNat < 8 && x.src.low8 }

/-- `{sae}` (R75, R110). -/
def Operands.sae (o : Operands) : Bool :=
  match o.src with
  | .reg _ sae => sae
  | .mem _ _ => false

/-- `EVEX.b = 1` with a memory source (R75). -/
def Operands.bcst (o : Operands) : Bool :=
  match o.src with
  | .reg _ _ => false
  | .mem _ b => b

/-! ### The checks of R161 before the operand read -/

/-- The refusals of R79 that the decoder leaves to the meaning, in its order: 67H in Mode32 (R62), `V'` (R78),
`z` without a mask (R74), registers above 7 in Mode32 (R66) (log 14, log 15). -/
def encodingRefusal (o : Operands) (s : State) : Option EncodingRefusal :=
  if s.cfg.mode == .mode32 && o.p67 then some .addr16
  else if !o.vp then some .evexVprime
  else if o.z && o.aaa == 0#3 then some .zWithoutMask
  else if s.cfg.mode == .mode32 && !o.low8 then some .mode32Regs
  else none

/-- The `#UD` conditions 1 to 6 of R150: W (R76), `vvvv` (R77), `EVEX.b` with memory on VCVTPH2PS (R135), the
CPUID flags (R2), the operating system's enabling (R153). -/
def invalidOpcode (f : Form) (o : Operands) (s : State) : Bool :=
  o.w || o.vvvv != 15#4 || (!f.psx && o.bcst) || !f.cpuidOk s.cfg || !s.ctl.osStateOk f.enc

/-- Steps 1 and 2 of R161: what stops the instruction before it reads its source. -/
def gate (f : Form) (o : Operands) (s : State) : Option Stop :=
  match encodingRefusal o s with
  | some r => some (.refused (.encoding r))
  | none =>
    if invalidOpcode f o s then some (.fault .ud)
    else if s.ctl.cr0Ts then some (.fault .nm)
    else none

/-! ### Effective address (R44, R45) -/

/-- The address width: 64 bits in Mode64 without 67H, else 32 (R44). -/
def State.addrWidth (s : State) (p67 : Bool) : Nat :=
  match s.cfg.mode with
  | .mode64 => if p67 then 32 else 64
  | .mode32 => 32

/-- A general register in an address: bits 31:0 under 32-bit addressing (R44). -/
def State.addrReg (s : State) (width : Nat) (i : BitVec 4) : Int := ((s.readGpr i).toNat % 2 ^ width : Nat)

/-- The index register; 0100b means there is none (R69). -/
def State.addrIndex (s : State) (width : Nat) (i : BitVec 4) : Int := if i = 4#4 then 0 else s.addrReg width i

/-- A displacement, sign-extended; one byte of it is multiplied by `n` (R70, R81, R82). -/
def Disp.value (n : Nat) : Disp → Int
  | .absent => 0
  | .d8 v => v.toInt * n
  | .d32 v => v.toInt

/-- The exact sum of R44: base, scaled index and displacement. RIP-relative addressing uses the address of the
next instruction. -/
def State.exactAddr (s : State) (width len n : Nat) : AddrForm → Int
  | .base r d => s.addrReg width r + Disp.value n d
  | .disp32 v =>
    match s.cfg.mode with
    | .mode64 => (s.pc.toNat + len : Nat) + v.toInt
    | .mode32 => v.toInt
  | .sib sc i b d => s.addrReg width b + s.addrIndex width i * 2 ^ sc.toNat + Disp.value n d
  | .sibNoBase sc i v => s.addrIndex width i * 2 ^ sc.toNat + v.toInt

/-- The linear address: the exact sum modulo the address width; segments are flat (R44, R45). -/
def State.linear (s : State) (p67 : Bool) (len n : Nat) (a : AddrForm) : Nat :=
  (s.exactAddr (s.addrWidth p67) len n a % 2 ^ s.addrWidth p67).toNat

/-! ### The oracle (R41) -/

/-- `#SS(0)` or `#GP(0)` at byte `x` of a read (R155). -/
def segFaultAt (s : State) (f : Form) (a n x : Nat) : Option Fault :=
  match denialAt s f a n x with
  | some .ss => some .ss
  | some .gp => some .gp
  | some (.pf _) | some .ac | none => none

/-- `#PF` at byte `x` of a read: denied with a code, or not mapped (R156; log 1, log 2). -/
def pageFaultAt (s : State) (f : Form) (a n x : Nat) : Option Fault :=
  match denialAt s f a n x with
  | some (.pf c) => some (.pf c (BitVec.ofNat 64 x))
  | some .ss | some .gp => none
  | some .ac | none =>
    match Memory.read s.mem x with
    | none => some (.pf (Config.unmappedFaultCode s f a n) (BitVec.ofNat 64 x))
    | some _ => none

/-- Alignment checking is enabled: CR0.AM, EFLAGS.AC and privilege level 3 (R30, R157; log 11). -/
def State.alignmentChecked (s : State) : Bool := s.ctl.cr0Am && s.rflags.getLsbD 18 && s.ctl.cpl == 3#2

/-- The oracle answers `#AC(0)` at some byte of a form's read of `n` bytes at `a`. -/
def acAnswered (s : State) (f : Form) (a n : Nat) : Bool :=
  (List.range' a n).any fun x => denialAt s f a n x == some .ac

/-- `#AC(0)`: never for a VEX form, whatever the oracle holds; for an EVEX form when the oracle answers it, where it
may: `evex_ac` is true, alignment checking is enabled and the operand is misaligned (R43, R157; log 4). -/
def alignFault (s : State) (f : Form) (a n : Nat) : Option Fault :=
  match f.enc with
  | .vex => none
  | .evex => if s.cfg.evexAc && s.alignmentChecked && a % n != 0 && acAnswered s f a n then some .ac else none

/-- The oracle's fault on a form's read of `n` bytes, in the order of R161: segment faults, then page faults at the
first byte refused, then alignment. `none`: it answers the bytes. -/
def oracleFault (s : State) (f : Form) (a n : Nat) : Option Fault :=
  match (List.range' a n).findSome? (segFaultAt s f a n) with
  | some x => some x
  | none =>
    match (List.range' a n).findSome? (pageFaultAt s f a n) with
    | some x => some x
    | none => alignFault s f a n

/-! ### The source operand -/

/-- A byte of memory that the oracle answers. -/
def State.byteAt (s : State) (a : Nat) : Byte := (Memory.read s.mem a).getD 0#8

/-- The FP16 element at an address, little-endian (R40). -/
def State.halfAt (s : State) (a : Nat) : Half := s.byteAt (a + 1) ++ s.byteAt a

/-- FP16 element `j` of a register (R10). -/
def halfLane (v : VReg) (j : Nat) : Half := v.extractLsb' (16 * j) 16

/-- How many bytes of memory are read: the whole operand whatever the mask, or one element (R42, R47, R144). -/
def Form.readBytes (f : Form) (b : Bool) : Nat := if b then 2 else f.vl.srcBytes

/-- The scale of a 1-byte displacement: 1 for VEX, the number of bytes read for EVEX (R81, R82). -/
def Form.dispScale (f : Form) (b : Bool) : Nat :=
  match f.enc with
  | .vex => 1
  | .evex => f.readBytes b

/-- The address of a memory source (R44). -/
def operandAddr (f : Form) (o : Operands) (s : State) (a : AddrForm) (b : Bool) : Nat :=
  s.linear o.p67 o.len (f.dispScale b) a

/-- Step 3 of R161: the source's FP16 elements by lane, read before any write (R122) and whatever the mask selects
(R47, log 20), or what stops the read (an operand past the top: log 17). -/
def readSource (f : Form) (o : Operands) (s : State) : Except Stop (Nat → Half) :=
  match o.src with
  | .reg r _ => .ok fun j => halfLane (s.readVec r) j
  | .mem a b =>
    let addr := operandAddr f o s a b
    if s.top < addr + f.readBytes b then .error (.refused .operandPastTop)
    else
      match oracleFault s f addr (f.readBytes b) with
      | some x => .error (.fault x)
      | none => .ok fun j => s.halfAt (if b then addr else addr + 2 * j)

end Sys2Proof.Machine
end

