-- ==== Sys2Proof/Machine/Convert.lean ====
section
/-! DEFINITION. The half-to-single conversion (40_conversion.md R100 to R105) and the one operation that all
eight forms are instances of (41_vcvtph2ps_vex.md R120, R121; 42_vcvtph2ps_evex.md R133; 43_vcvtph2psx.md R143). -/

namespace Sys2Proof.Machine

/-! ### `cvt_h2s` (R104) -/

/-- The result of converting one element: the value, and the signals Invalid and Denormal. -/
structure Converted where
  r   : Single
  inv : Bool
  den : Bool
  deriving DecidableEq, Repr

/-- The fields of an FP16 value (R100): sign, biased exponent, fraction. -/
def halfSign (h : Half) : BitVec 1 := h.extractLsb' 15 1
def halfExp (h : Half) : BitVec 5 := h.extractLsb' 10 5
def halfFrac (h : Half) : BitVec 10 := h.extractLsb' 0 10

/-- A single precision value from its fields (R101). -/
def mkSingle (s : BitVec 1) (e : BitVec 8) (f : BitVec 23) : Single := s ++ e ++ f

/-- Position of the highest set bit at or below `n`, 0 if there is none. -/
def topBit (f : BitVec 10) : Nat → Nat
  | 0 => 0
  | n + 1 => if f.getLsbD (n + 1) then n + 1 else topBit f n

/-- R104, case by case: the default of D10. `MXCSR.DAZ` is not read (R105), nor RC and FTZ (R111). -/
def cvtH2sDefault (h : Half) : Converted :=
  let s := halfSign h
  let e := halfExp h
  let f := halfFrac h
  if e = 0#5 then
    if f = 0#10 then { r := mkSingle s 0#8 0#23, inv := false, den := false }
    else
      let p := topBit f 9
      { r := mkSingle s (BitVec.ofNat 8 (p + 103)) (f.setWidth 23 <<< (23 - p)), inv := false, den := true }
  else if e = 31#5 then
    if f = 0#10 then { r := mkSingle s 255#8 0#23, inv := false, den := false }
    else if f.getLsbD 9 then { r := mkSingle s 255#8 (f ++ 0#13), inv := false, den := false }
    else { r := mkSingle s 255#8 (1#1 ++ f.extractLsb' 0 9 ++ 0#13), inv := true, den := false }
  else { r := mkSingle s (BitVec.ofNat 8 (e.toNat + 112)) (f ++ 0#13), inv := false, den := false }

/-- A NaN of either kind (R100). -/
def halfIsNaN (h : Half) : Bool := halfExp h == 31#5 && halfFrac h != 0#10

/-- The pattern of a quiet NaN (R101). -/
def quietSingle (q : QuietNaN) : Single := mkSingle q.sign 255#8 (1#1 ++ q.payload)

/-- What the configuration says in place of the default, for a NaN input (R112; log 18). -/
def configuredNaN (c : CpuConfig) (h : Half) : Option QuietNaN :=
  if halfIsNaN h then c.nanResults.lookup h else none

/-- `cvt_h2s` of a configuration (R112, D10): a total function of the input, R104's but for the result on the NaN inputs
that the configuration names. P1, P2, P3 and P5 are R104's, P4 is the type of those results. -/
def cvtH2s (c : CpuConfig) (h : Half) : Converted :=
  match configuredNaN c h with
  | some q => { cvtH2sDefault h with r := quietSingle q }
  | none => cvtH2sDefault h

/-! ### Lanes of the destination -/

/-- FP32 lane `j` of a register (R10). -/
def singleLane (v : VReg) (j : Nat) : Single := v.extractLsb' (32 * j) 32

/-- A register whose lanes below `n` are given and whose bits above are zero. -/
def packLanes (f : Nat → Single) : Nat → VReg
  | 0 => 0#512
  | n + 1 => packLanes f n ||| ((f n).setWidth 512 <<< (32 * n))

/-! ### The shared operation -/

/-- Lane `j` is selected: no write mask, or the mask's bit `j` (R74). -/
def Operands.selects (o : Operands) (s : State) (j : Nat) : Bool :=
  o.aaa == 0#3 || (s.readMask o.aaa).getLsbD j

/-- The signals of the selected lanes; Denormal is VCVTPH2PSX's alone (R106 to R108, R162). -/
def signals (f : Form) (o : Operands) (s : State) (src : Nat → Half) : Signals :=
  { inv := (List.range f.vl.lanes).any fun j => o.selects s j && (cvtH2s s.cfg (src j)).inv
    den := f.psx && (List.range f.vl.lanes).any fun j => o.selects s j && (cvtH2s s.cfg (src j)).den }

/-- Lane `j` of the result: converted, or zeroed, or what the destination held (R133, R143). -/
def resultLane (o : Operands) (s : State) (src : Nat → Half) (j : Nat) : Single :=
  if o.selects s j then (cvtH2s s.cfg (src j)).r
  else if o.z then 0#32
  else singleLane (s.readVec o.dst) j

/-- Step 5 of R161, the commit: destination, MXCSR flags unless `{sae}` (R110), `pc`; then the turn is over. -/
def commit (f : Form) (o : Operands) (s : State) (src : Nat → Half) : State :=
  let mxcsr := if o.sae then s.mxcsr else stickyFlags s.mxcsr (signals f o s src)
  (((s.writeVec o.dst (packLanes (resultLane o s src) f.vl.lanes)).setMxcsr mxcsr).advance o.len).nextTurn

/-- One form of the conversion, its checks in the order of R161. -/
def convertForm (f : Form) (o : Operands) (s : State) : Host.Outcome State Fault Refusal :=
  match gate f o s with
  | some st => st.outcome
  | none =>
    match readSource f o s with
    | .error st => st.outcome
    | .ok src =>
      if !o.sae && s.unmasked (signals f o s src) then .fault (s.simdFault f)
      else .next (commit f o s src)

/-! ### Values of the two formats, for claims (R100, R101) -/

/-- The value of a finite FP16 pattern (R100). -/
def halfValue (h : Half) : ℚ :=
  (-1) ^ (halfSign h).toNat *
    if halfExp h = 0#5 then (2 : ℚ) ^ (-14 : ℤ) * ((halfFrac h).toNat / 2 ^ 10)
    else (2 : ℚ) ^ (((halfExp h).toNat : ℤ) - 15) * (1 + (halfFrac h).toNat / 2 ^ 10)

/-- The fields of an FP32 value (R101). -/
def singleSign (r : Single) : BitVec 1 := r.extractLsb' 31 1
def singleExp (r : Single) : BitVec 8 := r.extractLsb' 23 8
def singleFrac (r : Single) : BitVec 23 := r.extractLsb' 0 23

/-- The value of a normal FP32 pattern or a zero (R101). -/
def singleValue (r : Single) : ℚ :=
  if singleExp r = 0#8 ∧ singleFrac r = 0#23 then 0
  else (-1) ^ (singleSign r).toNat * (2 : ℚ) ^ (((singleExp r).toNat : ℤ) - 127) * (1 + (singleFrac r).toNat / 2 ^ 23)

/-- FP32 classes that claims name (R101). -/
def singleIsNormalOrZero (r : Single) : Bool :=
  (1 ≤ (singleExp r).toNat && (singleExp r).toNat ≤ 254) || (singleExp r == 0#8 && singleFrac r == 0#23)
def singleIsQuietNaN (r : Single) : Bool := singleExp r == 255#8 && (singleFrac r).getLsbD 22
/-- FP16 classes that claims name (R100). -/
def halfIsDenormal (h : Half) : Bool := halfExp h == 0#5 && halfFrac h != 0#10
def halfIsSignalingNaN (h : Half) : Bool := halfExp h == 31#5 && halfFrac h != 0#10 && !(halfFrac h).getLsbD 9

end Sys2Proof.Machine
end

