-- ==== Sys2Proof/Machine/VcvtphEvex.lean ====
section
/-! DEFINITION. VCVTPH2PS, the EVEX-encoded forms 3, 4 and 5 (42_vcvtph2ps_evex.md R130 to R135). -/

namespace Sys2Proof.Machine

/-- Form 3: EVEX.128, map 2 (R130). -/
def formEvex128 : Form := { enc := .evex, psx := false, vl := .v128 }
/-- Form 4: EVEX.256, map 2 (R131). -/
def formEvex256 : Form := { enc := .evex, psx := false, vl := .v256 }
/-- Form 5: EVEX.512, map 2 (R132). -/
def formEvex512 : Form := { enc := .evex, psx := false, vl := .v512 }

/-- VCVTPH2PS xmm1 k1 z, xmm2/m64 (R130, R133). -/
def execVcvtph2psEvex128 (x : EvexOps EvexSrc) (s : State) : Host.Outcome State Fault Refusal :=
  convertForm formEvex128 (EvexOps.operands x) s

/-- VCVTPH2PS ymm1 k1 z, xmm2/m128 (R131, R133). -/
def execVcvtph2psEvex256 (x : EvexOps EvexSrc) (s : State) : Host.Outcome State Fault Refusal :=
  convertForm formEvex256 (EvexOps.operands x) s

/-- VCVTPH2PS zmm1 k1 z, ymm2/m256 sae (R132, R133, R134). -/
def execVcvtph2psEvex512 (x : EvexOps EvexSrc512) (s : State) : Host.Outcome State Fault Refusal :=
  convertForm formEvex512 (EvexOps.operands512 x) s

end Sys2Proof.Machine
end

