-- ==== Sys2Proof/Machine/VcvtphVex.lean ====
section
/-! DEFINITION. VCVTPH2PS, the VEX-encoded forms 1 and 2 (41_vcvtph2ps_vex.md R120 to R123). -/

namespace Sys2Proof.Machine

/-- Form 1: VEX.128 (R120). -/
def formVex128 : Form := { enc := .vex, psx := false, vl := .v128 }
/-- Form 2: VEX.256 (R121). -/
def formVex256 : Form := { enc := .vex, psx := false, vl := .v256 }

/-- VCVTPH2PS xmm1, xmm2/m64 (R120). -/
def execVcvtph2psVex128 (x : VexOps) (s : State) : Host.Outcome State Fault Refusal :=
  convertForm formVex128 (VexOps.operands x) s

/-- VCVTPH2PS ymm1, xmm2/m128 (R121). -/
def execVcvtph2psVex256 (x : VexOps) (s : State) : Host.Outcome State Fault Refusal :=
  convertForm formVex256 (VexOps.operands x) s

end Sys2Proof.Machine
end

