-- ==== Sys2Proof/Machine/Vcvtphx.lean ====
section
/-! DEFINITION. VCVTPH2PSX, forms 6, 7 and 8 (43_vcvtph2psx.md R140 to R145). -/

namespace Sys2Proof.Machine

/-- Form 6: EVEX.128, map 6 (R140). -/
def formPsx128 : Form := { enc := .evex, psx := true, vl := .v128 }
/-- Form 7: EVEX.256, map 6 (R141). -/
def formPsx256 : Form := { enc := .evex, psx := true, vl := .v256 }
/-- Form 8: EVEX.512, map 6 (R142). -/
def formPsx512 : Form := { enc := .evex, psx := true, vl := .v512 }

/-- VCVTPH2PSX xmm1 k1 z, xmm2/m64/m16bcst (R140, R143, R144). -/
def execVcvtph2psxEvex128 (x : EvexOps EvexSrc) (s : State) : Host.Outcome State Fault Refusal :=
  convertForm formPsx128 (EvexOps.operands x) s

/-- VCVTPH2PSX ymm1 k1 z, xmm2/m128/m16bcst (R141, R143, R144). -/
def execVcvtph2psxEvex256 (x : EvexOps EvexSrc) (s : State) : Host.Outcome State Fault Refusal :=
  convertForm formPsx256 (EvexOps.operands x) s

/-- VCVTPH2PSX zmm1 k1 z, ymm2/m256/m16bcst sae (R142, R143, R144, R145). -/
def execVcvtph2psxEvex512 (x : EvexOps EvexSrc512) (s : State) : Host.Outcome State Fault Refusal :=
  convertForm formPsx512 (EvexOps.operands512 x) s

end Sys2Proof.Machine
end

