-- ==== Sys2Proof/Machine/Dispatch.lean ====
section
/-! DEFINITION. The dispatch: one arm per row of spec/opcode_table.json. -/

namespace Sys2Proof.Machine

def exec (i : Instr) (s : State) : Host.Outcome State Fault Refusal :=
  match i with
  | .vcvtph2psVex128 x => Sys2Proof.Machine.execVcvtph2psVex128 x s
  | .vcvtph2psVex256 x => Sys2Proof.Machine.execVcvtph2psVex256 x s
  | .vcvtph2psEvex128 x => Sys2Proof.Machine.execVcvtph2psEvex128 x s
  | .vcvtph2psEvex256 x => Sys2Proof.Machine.execVcvtph2psEvex256 x s
  | .vcvtph2psEvex512 x => Sys2Proof.Machine.execVcvtph2psEvex512 x s
  | .vcvtph2psxEvex128 x => Sys2Proof.Machine.execVcvtph2psxEvex128 x s
  | .vcvtph2psxEvex256 x => Sys2Proof.Machine.execVcvtph2psxEvex256 x s
  | .vcvtph2psxEvex512 x => Sys2Proof.Machine.execVcvtph2psxEvex512 x s

end Sys2Proof.Machine
end

