-- ==== Sys2Proof/Machine/Step.lean ====
section
/-! DEFINITION. One step of the machine: fetch, decode, execute (00_scope.md R7, 30_encoding.md R79). The meanings
advance `pc` themselves (10_state.md R28), so a step adds nothing around exec. -/

namespace Sys2Proof.Machine

/-- One step. A step does not look at `endPc`: a run does (`runSteps`, R184; log 19). -/
def step (s : State) : Host.Outcome State Fault Refusal :=
  match decode s.cfg.mode s.cfg.saeLenPolicy s.fetch with
  | .instr i _ => exec i s
  | .ud => .fault .ud
  | .refused r => .refused (.encoding r)
  | .truncated => .refused s.shortFetch

/-- How a run from a launch state ends (R184). -/
inductive RunEnd
  /-- Normally: `pc` is the end address. -/
  | ended (s : State)
  /-- Not within the steps given. -/
  | unfinished (s : State)
  | fault (f : Fault) (s : State)
  | refused (r : Refusal) (s : State)
  deriving DecidableEq, Repr

/-- A run of at most `n` steps (R184): it ends normally when `pc` is the end address, abnormally with the first
fault, whose state `faultState` gives (R165), or refusal. -/
def runSteps : Nat → State → RunEnd
  | 0, s => if s.ended then .ended s else .unfinished s
  | n + 1, s =>
    if s.ended then .ended s
    else
      match step s with
      | .next t => runSteps n t
      | .fault f => .fault f (faultState f s)
      | .refused r => .refused r s

/-- `s` launched (R180, R181; log 8) with one instruction's bytes at `pc`: `step` fetches and runs exactly it. -/
def State.withFetchWord (s : State) (nbits w : Nat) : State :=
  { s.launch with mem := Memory.writeBytes s.mem s.pc.toNat (tableWordBytes nbits w) }

end Sys2Proof.Machine
end

