-- ==== Sys2Proof/Safety.lean ====
section
/-! DEFINITION. The terms claims use: the form and operands of an instruction, when a form is enabled and its
operand readable, what a completed form leaves, and the invariant of the state. -/

namespace Sys2Proof.Machine

/-! ### An instruction as a form with operands -/

/-- The row of R60 an instruction belongs to. -/
def Instr.form : Instr → Form
  | .vcvtph2psVex128 _ => formVex128
  | .vcvtph2psVex256 _ => formVex256
  | .vcvtph2psEvex128 _ => formEvex128
  | .vcvtph2psEvex256 _ => formEvex256
  | .vcvtph2psEvex512 _ => formEvex512
  | .vcvtph2psxEvex128 _ => formPsx128
  | .vcvtph2psxEvex256 _ => formPsx256
  | .vcvtph2psxEvex512 _ => formPsx512

/-- Its operands in the one shape of Operands.lean. -/
def Instr.operands : Instr → Operands
  | .vcvtph2psVex128 x | .vcvtph2psVex256 x => VexOps.operands x
  | .vcvtph2psEvex128 x | .vcvtph2psEvex256 x | .vcvtph2psxEvex128 x | .vcvtph2psxEvex256 x => EvexOps.operands x
  | .vcvtph2psEvex512 x | .vcvtph2psxEvex512 x => EvexOps.operands512 x

/-- VCVTPH2PS in a VEX encoding: form 2 if `l256`, else form 1. -/
def vexInstr (l256 : Bool) (x : VexOps) : Instr := if l256 then .vcvtph2psVex256 x else .vcvtph2psVex128 x

/-- An operand of the 128- and 256-bit forms as one of the 512-bit forms: every source but `{sae}`. -/
def widenSrc : EvexSrc → EvexSrc512
  | .reg r => .reg r
  | .mem a => .mem a
  | .memB a => .memB a

def widenOps (x : EvexOps EvexSrc) : EvexOps EvexSrc512 :=
  { p67 := x.p67, dst := x.dst, w := x.w, vvvv := x.vvvv, z := x.z, vp := x.vp, aaa := x.aaa, src := widenSrc x.src }

/-- VCVTPH2PS in an EVEX encoding, by vector length: forms 3, 4 and 5. -/
def psInstr (vl : VecLen) (x : EvexOps EvexSrc) : Instr :=
  match vl with
  | .v128 => .vcvtph2psEvex128 x
  | .v256 => .vcvtph2psEvex256 x
  | .v512 => .vcvtph2psEvex512 (widenOps x)

/-- VCVTPH2PSX, by vector length: forms 6, 7 and 8. -/
def psxInstr (vl : VecLen) (x : EvexOps EvexSrc) : Instr :=
  match vl with
  | .v128 => .vcvtph2psxEvex128 x
  | .v256 => .vcvtph2psxEvex256 x
  | .v512 => .vcvtph2psxEvex512 (widenOps x)

/-- The VCVTPH2PS instruction with the fields of a VCVTPH2PSX one; any other instruction is its own. -/
def psTwin : Instr → Instr
  | .vcvtph2psVex128 x => .vcvtph2psVex128 x
  | .vcvtph2psVex256 x => .vcvtph2psVex256 x
  | .vcvtph2psEvex128 x | .vcvtph2psxEvex128 x => .vcvtph2psEvex128 x
  | .vcvtph2psEvex256 x | .vcvtph2psxEvex256 x => .vcvtph2psEvex256 x
  | .vcvtph2psEvex512 x | .vcvtph2psxEvex512 x => .vcvtph2psEvex512 x

/-- An EVEX form of either mnemonic: forms 3 to 8. -/
def evexInstr (psx : Bool) (vl : VecLen) (x : EvexOps EvexSrc) : Instr := if psx then psxInstr vl x else psInstr vl x

/-- The leading bytes of an instruction's row in spec/opcode_table.json, from its VEX or EVEX prefix on: the mask
and the match of each. -/
def rowPattern : Instr → List (Byte × Byte)
  | .vcvtph2psVex128 _ => [(0xFF#8, 0xC4#8), (0x1F#8, 0x02#8), (0x07#8, 0x01#8), (0xFF#8, 0x13#8)]
  | .vcvtph2psVex256 _ => [(0xFF#8, 0xC4#8), (0x1F#8, 0x02#8), (0x07#8, 0x05#8), (0xFF#8, 0x13#8)]
  | .vcvtph2psEvex128 _ =>
    [(0xFF#8, 0x62#8), (0x0F#8, 0x02#8), (0x07#8, 0x05#8), (0x60#8, 0x00#8), (0xFF#8, 0x13#8)]
  | .vcvtph2psEvex256 _ =>
    [(0xFF#8, 0x62#8), (0x0F#8, 0x02#8), (0x07#8, 0x05#8), (0x60#8, 0x20#8), (0xFF#8, 0x13#8)]
  | .vcvtph2psEvex512 _ =>
    [(0xFF#8, 0x62#8), (0x0F#8, 0x02#8), (0x07#8, 0x05#8), (0x60#8, 0x40#8), (0xFF#8, 0x13#8)]
  | .vcvtph2psxEvex128 _ =>
    [(0xFF#8, 0x62#8), (0x0F#8, 0x06#8), (0x07#8, 0x05#8), (0x60#8, 0x00#8), (0xFF#8, 0x13#8)]
  | .vcvtph2psxEvex256 _ =>
    [(0xFF#8, 0x62#8), (0x0F#8, 0x06#8), (0x07#8, 0x05#8), (0x60#8, 0x20#8), (0xFF#8, 0x13#8)]
  | .vcvtph2psxEvex512 _ =>
    [(0xFF#8, 0x62#8), (0x0F#8, 0x06#8), (0x07#8, 0x05#8), (0x60#8, 0x40#8), (0xFF#8, 0x13#8)]

/-- Bytes begin as a pattern says: each byte AND its mask is its match. -/
def matchesRow : List (Byte × Byte) → List Byte → Bool
  | [], _ => true
  | _ :: _, [] => false
  | (mask, mat) :: ps, b :: bs => (b &&& mask == mat) && matchesRow ps bs

/-! ### When a form executes -/

/-- An instruction that the mode can spell and that no refusal of R79 stops: `V'` as R78 wants it, and `z` only
with a mask (R74). -/
def Spellable (i : Instr) (s : State) : Prop :=
  i.wfIn s.cfg.mode = true ∧ (Instr.operands i).vp = true ∧
    ((Instr.operands i).z = true → (Instr.operands i).aaa ≠ 0#3)

/-- A spellable instruction whose encoding raises no `#UD`: W (R76), `vvvv` (R77), and `EVEX.b` with memory only on
VCVTPH2PSX (R135). -/
def Legal (i : Instr) (s : State) : Prop :=
  Spellable i s ∧ (Instr.operands i).w = false ∧ (Instr.operands i).vvvv = 15#4 ∧
    ((Instr.operands i).bcst = true → (Instr.form i).psx = true)

/-- What R181 asks of processor and operating system before a form executes: the CPUID flags (R2), the enabled
vector state (R153), and CR0.TS clear (R154). -/
def Enabled (f : Form) (s : State) : Prop :=
  f.cpuidOk s.cfg = true ∧ s.ctl.osStateOk f.enc = true ∧ s.ctl.cr0Ts = false

/-- The `n` bytes at `a` are inside the address space and mapped, and at none of them does the oracle answer the
form's read with a segment or page fault (R41; log 1, log 3). -/
def Readable (s : State) (f : Form) (a n : Nat) : Prop :=
  a + n ≤ s.top ∧ ∀ x, a ≤ x → x < a + n →
    (denialAt s f a n x = none ∨ denialAt s f a n x = some .ac) ∧ (Memory.read s.mem x).isSome = true

/-- A form's read of `n` bytes at `a` does not answer `#AC(0)` (R43, R157): a VEX form, or `evex_ac` false, or
alignment checking off, or an aligned operand, or the oracle does not answer so (log 3, log 4). -/
def NoAlignFault (f : Form) (s : State) (a n : Nat) : Prop :=
  f.enc = .vex ∨ s.cfg.evexAc = false ∨ s.alignmentChecked = false ∨ a % n = 0 ∨ acAnswered s f a n = false

/-- Lane `j` is selected by the mask selector `aaa` (R74). -/
def laneSelected (s : State) (aaa : BitVec 3) (j : Nat) : Bool := aaa == 0#3 || (s.readMask aaa).getLsbD j

/-- Some selected lane below `kl` holds a signaling NaN: the instruction signals Invalid (R106, R108). -/
def signalsInvalid (sel : Nat → Bool) (kl : Nat) (elem : Nat → Half) : Bool :=
  (List.range kl).any fun j => sel j && halfIsSignalingNaN (elem j)

/-- Some selected lane below `kl` holds a denormal: VCVTPH2PSX signals Denormal (R107, R108). -/
def signalsDenormal (sel : Nat → Bool) (kl : Nat) (elem : Nat → Half) : Bool :=
  (List.range kl).any fun j => sel j && halfIsDenormal (elem j)

/-! ### What a completed form leaves -/

/-- What every completed form leaves alone (R8, R23, R26, R29, R30, R123): all but the destination register,
MXCSR, `pc` and the model's own turn. -/
structure FrameKept (s t : State) (dst : BitVec 5) : Prop where
  vectors : ∀ i : BitVec 5, i ≠ dst → t.readVec i = s.readVec i
  masks   : t.k = s.k
  gprs    : t.gpr = s.gpr
  rflags  : t.rflags = s.rflags
  control : t.ctl = s.ctl
  config  : t.cfg = s.cfg
  cr2     : t.cr2 = s.cr2
  endPc   : t.endPc = s.endPc
  memory  : ∀ a, Memory.read t.mem a = Memory.read s.mem a
  denied  : t.denied = s.denied

/-- What a completed form writes: the lanes of the destination below `kl`, zero above them, the sticky flags IE
and DE and no other bit of MXCSR, and `pc`; and the model's own turn is over (log 3). -/
structure Wrote (s t : State) (dst : BitVec 5) (kl : Nat) (lane : Nat → Single) (ie de : Bool) (len : Nat) :
    Prop where
  lanes : ∀ j, j < kl → singleLane (t.readVec dst) j = lane j
  above : ∀ b, 32 * kl ≤ b → (t.readVec dst).getLsbD b = false
  ie    : t.ie = (s.ie || ie)
  de    : t.de = (s.de || de)
  mxcsr : ∀ b, 2 ≤ b → t.mxcsr.getLsbD b = s.mxcsr.getLsbD b
  pc    : t.pc = s.pcAfter len
  turn  : t.turn = s.turn + 1

/-! ### The invariant -/

/-- What every state of the machine meets: memory in canonical form and no read denied twice; in Mode32 `pc` below
2^32 (R28); MXCSR[31:16] zero (R25); no bit of a vector register above MAXVL and no register above NVREG (R20);
no bit of an opmask register above KW (R23). -/
structure State.Inv (s : State) : Prop where
  mem    : Memory.wf s.mem
  denied : s.denied.Pairwise fun a b => a.1 ≠ b.1
  pc     : s.pc.toNat < s.top
  mxcsr  : ∀ b, 16 ≤ b → s.mxcsr.getLsbD b = false
  maxvl  : ∀ (i : BitVec 5) (b : Nat), s.cfg.maxvl ≤ b → (s.zmm[i.toNat]'i.isLt).getLsbD b = false
  nvreg  : ∀ i : BitVec 5, s.cfg.nvreg ≤ i.toNat → s.zmm[i.toNat]'i.isLt = 0#512
  kw     : ∀ (i : BitVec 3) (b : Nat), s.cfg.kw.bits ≤ b → (s.k[i.toNat]'i.isLt).getLsbD b = false

end Sys2Proof.Machine
end

