-- ==== Sys2Proof/Certificates/Slice0/Obligations.lean ====
section
/-! DEFINITION. The statements for the provers. Each docstring names the rules of spec/ it formalises; where a
statement rests on the model's own choice, it names the log entry. -/

open Sys2Proof Sys2Proof.Machine

/-! ### Encoding -/

/-- One word of each row of R60, written out bit by bit from R63, R65 and R68, decodes to the instruction it stands
for: `vcvtph2ps xmm0, xmm1`; `vcvtph2ps ymm15, xmm14`; `vcvtph2ps xmm0 k1, xmm1`; `vcvtph2ps ymm1, [rbx+2*16]`;
`vcvtph2ps zmm31, ymm30`; `vcvtph2psx xmm0 k3, xmm1`; `vcvtph2psx ymm0, [rax] 1to8`; `vcvtph2psx zmm0, ymm1, sae`. -/
def Obligations.SampleWordsDecode : Prop :=
  decode .mode64 .require10 [0b11000100#8, 0b11100010#8, 0b01111001#8, 0b00010011#8, 0b11000001#8] =
    .instr (.vcvtph2psVex128 { p67 := false, dst := 0#4, w := false, vvvv := 15#4, src := .reg 1#4 }) [] ∧
  decode .mode64 .require10 [0b11000100#8, 0b01000010#8, 0b01111101#8, 0b00010011#8, 0b11111110#8] =
    .instr (.vcvtph2psVex256 { p67 := false, dst := 15#4, w := false, vvvv := 15#4, src := .reg 14#4 }) [] ∧
  decode .mode64 .require10 [0b01100010#8, 0b11110010#8, 0b01111101#8, 0b00001001#8, 0b00010011#8, 0b11000001#8] =
    .instr (.vcvtph2psEvex128 { p67 := false, dst := 0#5, w := false, vvvv := 15#4, z := false, vp := true,
                                aaa := 1#3, src := .reg 1#5 }) [] ∧
  decode .mode64 .require10
      [0b01100010#8, 0b11110010#8, 0b01111101#8, 0b00101000#8, 0b00010011#8, 0b01001011#8, 0b00000010#8] =
    .instr (.vcvtph2psEvex256 { p67 := false, dst := 1#5, w := false, vvvv := 15#4, z := false, vp := true,
                                aaa := 0#3, src := .mem (.base 3#4 (.d8 2#8)) }) [] ∧
  decode .mode64 .require10 [0b01100010#8, 0b00000010#8, 0b01111101#8, 0b01001000#8, 0b00010011#8, 0b11111110#8] =
    .instr (.vcvtph2psEvex512 { p67 := false, dst := 31#5, w := false, vvvv := 15#4, z := false, vp := true,
                                aaa := 0#3, src := .reg 30#5 }) [] ∧
  decode .mode64 .require10 [0b01100010#8, 0b11110110#8, 0b01111101#8, 0b00001011#8, 0b00010011#8, 0b11000001#8] =
    .instr (.vcvtph2psxEvex128 { p67 := false, dst := 0#5, w := false, vvvv := 15#4, z := false, vp := true,
                                 aaa := 3#3, src := .reg 1#5 }) [] ∧
  decode .mode64 .require10 [0b01100010#8, 0b11110110#8, 0b01111101#8, 0b00111000#8, 0b00010011#8, 0b00000000#8] =
    .instr (.vcvtph2psxEvex256 { p67 := false, dst := 0#5, w := false, vvvv := 15#4, z := false, vp := true,
                                 aaa := 0#3, src := .memB (.base 0#4 .absent) }) [] ∧
  decode .mode64 .require10 [0b01100010#8, 0b11110110#8, 0b01111101#8, 0b01011000#8, 0b00010011#8, 0b11000001#8] =
    .instr (.vcvtph2psxEvex512 { p67 := false, dst := 0#5, w := false, vvvv := 15#4, z := false, vp := true,
                                 aaa := 0#3, src := .regSae 1#5 }) []

/-- Decode of encode is the instruction, for every instruction the mode can spell, with every operand at every
value, and whatever bytes follow (R61 to R72; the encoder is written from the same tables). A stored `V'` of 0, and
`z = 1` with `aaa = 000b`, are among them: R78, R74 and R79 refuse these encodings, and that the decoder gives the row's
instruction, which the meaning then refuses, is the model's choice of log 14. -/
def Obligations.DecodeOfEncodeIsTheInstruction : Prop :=
  ∀ (m : Mode) (pol : SaeLenPolicy) (i : Instr) (tail : List Byte),
    i.wfIn m = true → decode m pol (encode i ++ tail) = .instr i tail

/-- The bytes a decode consumes are the instruction's length, and the length is 5 to 12 (R83). -/
def Obligations.DecodeConsumesTheLength : Prop :=
  ∀ (m : Mode) (pol : SaeLenPolicy) (bs : List Byte) (i : Instr) (rest : List Byte),
    decode m pol bs = .instr i rest →
      bs.length = i.length + rest.length ∧ 5 ≤ i.length ∧ i.length ≤ 12

/-- The decoder gives only instructions that an encoding spells (R69, R70), and in Mode32 only those it admits,
unless `V'` or `z` is already wrong, which is refused first (R62, R66, R79; log 14). -/
def Obligations.DecodedInstructionsAreWellFormed : Prop :=
  ∀ (m : Mode) (pol : SaeLenPolicy) (bs : List Byte) (i : Instr) (rest : List Byte),
    decode m pol bs = .instr i rest →
      i.wf = true ∧
      ((Instr.operands i).vp = true → ((Instr.operands i).z = true → (Instr.operands i).aaa ≠ 0#3) → i.wfIn m = true)

/-- Bytes after the instruction do not change how it decodes (R83; which encodings the decoder gives an instruction for
and leaves the meaning to refuse is log 14). -/
def Obligations.DecodeReadsNoLaterByte : Prop :=
  ∀ (m : Mode) (pol : SaeLenPolicy) (bs : List Byte) (i : Instr) (rest tail : List Byte),
    decode m pol bs = .instr i rest → decode m pol (bs ++ tail) = .instr i (rest ++ tail)

/-- Bytes that decode to an instruction begin, after an optional 67H, as the mask and match of its row in
spec/opcode_table.json say (under the default `sae_len_policy`). -/
def Obligations.DecodedBytesMatchTheirRow : Prop :=
  ∀ (m : Mode) (bs : List Byte) (i : Instr) (rest : List Byte),
    decode m .require10 bs = .instr i rest →
      (i.p67 = true → bs.head? = some 0x67#8) ∧
      matchesRow (rowPattern i) (if i.p67 then bs.tail else bs) = true

/-- LOCK, 66H, F2H, F3H, and REX in Mode64, before the VEX prefix C4H or the EVEX prefix raise `#UD` (R62, R66, R150 row
7; before C5H, which no form has, the bytes are refused: the model's choice of log 13). -/
def Obligations.IllegalPrefixRaisesInvalidOpcode : Prop :=
  ∀ (s : State) (p c n : Byte) (rest : List Byte),
    s.fetch = p :: c :: n :: rest →
    (p = 0xF0#8 ∨ p = 0x66#8 ∨ p = 0xF2#8 ∨ p = 0xF3#8 ∨ (s.cfg.mode = .mode64 ∧ p.extractLsb' 4 4 = 4#4)) →
    (c = 0xC4#8 ∨ c = 0x62#8) →
    (s.cfg.mode = .mode32 → n.extractLsb' 6 2 = 3#2) →
    step s = .fault .ud

/-- Segment overrides are refused; in Mode32 so is 67H (R44); a second 67H is no prefix, and no form begins there (R62,
R79). They decide whatever bytes follow, an illegal prefix before C4H or 62H among them: that the first byte decides
where rows of R62 overlap is the model's choice of log 13. -/
def Obligations.RefusedLegacyPrefixes : Prop :=
  ∀ (m : Mode) (pol : SaeLenPolicy) (p : Byte) (rest : List Byte),
    (p ∈ [0x26#8, 0x2E#8, 0x36#8, 0x3E#8, 0x64#8, 0x65#8] →
      decode m pol (p :: rest) = .refused .segmentOverride) ∧
    decode .mode32 pol (0x67#8 :: rest) = .refused .addr16 ∧
    decode .mode64 pol (0x67#8 :: 0x67#8 :: rest) = .refused .notInScope

/-- Reserved EVEX fields, in both modes (in Mode32 with 11b after 62H, R66): P0[3] = 1 or P1[2] = 0 (R78); then, for the
opcode maps of the six forms, `b = 1` with a register source and `L'L` not 10b under `require_10` (R75), and
`L'L = 11b` (R73). Under `ignore`, `b = 1` with a register source is form 5 or form 8 with `{sae}` whatever `L'L` is,
its source register `X ++ B ++ rm` (R72, R75, R134, R145); that it is so with a stored `V'` of 0 or with `z = 1` and
`aaa = 000b` too, which the meaning and not the decoder refuses, is the model's choice of log 14. -/
def Obligations.ReservedEvexFieldsAreRefused : Prop :=
  ∀ (m : Mode) (pol : SaeLenPolicy) (p0 p1 p2 op modrm : Byte) (rest : List Byte),
    let answer := decode m pol (0x62#8 :: p0 :: p1 :: p2 :: op :: modrm :: rest)
    (m = .mode32 → p0.extractLsb' 6 2 = 3#2) →
    ((p0.getLsbD 3 = true ∨ p1.getLsbD 2 = false) → answer = .refused .evexReserved) ∧
    (p0.getLsbD 3 = false → p1.getLsbD 2 = true →
      (p0.extractLsb' 0 3 = 2#3 ∨ p0.extractLsb' 0 3 = 6#3) → p1.extractLsb' 0 2 = 1#2 → op = 0x13#8 →
      (modrm.extractLsb' 6 2 = 3#2 → p2.getLsbD 4 = true → p2.extractLsb' 5 2 ≠ 2#2 → pol = .require10 →
        answer = .refused .saeLen) ∧
      ((modrm.extractLsb' 6 2 ≠ 3#2 ∨ p2.getLsbD 4 = false) → p2.extractLsb' 5 2 = 3#2 →
        answer = .refused .evexLen) ∧
      (modrm.extractLsb' 6 2 = 3#2 → p2.getLsbD 4 = true → pol = .ignore →
        (m = .mode32 → p0.getLsbD 5 = true ∧ p0.getLsbD 4 = true) →
        ∃ x : EvexOps EvexSrc512,
          answer = .instr (if p0.extractLsb' 0 3 = 6#3 then .vcvtph2psxEvex512 x else .vcvtph2psEvex512 x) rest ∧
          x.src = .regSae (BitVec.ofBool (!p0.getLsbD 6) ++ (BitVec.ofBool (!p0.getLsbD 5) ++ modrm.extractLsb' 0 3))))

/-- In Mode32, C4H and 62H with anything but 11b on top of the next byte are other instructions; and with 11b, a
VEX form whose stored B is not 1 is refused (R66). -/
def Obligations.Mode32EncodingsAreRestricted : Prop :=
  ∀ (pol : SaeLenPolicy) (c n : Byte) (rest : List Byte), c = 0xC4#8 ∨ c = 0x62#8 →
    (n.extractLsb' 6 2 ≠ 3#2 → decode .mode32 pol (c :: n :: rest) = .refused .notInScope) ∧
    (∀ (b2 modrm : Byte), c = 0xC4#8 → n.extractLsb' 6 2 = 3#2 → n.getLsbD 5 = false → n.extractLsb' 0 5 = 2#5 →
      b2.extractLsb' 0 2 = 1#2 →
      decode .mode32 pol (c :: n :: b2 :: 0x13#8 :: modrm :: rest) = .refused .mode32Regs)

/-! ### Steps -/

/-- When the bytes at `pc` decode to an instruction, the step is exec of it; nothing is added around it (R79). -/
def Obligations.StepRunsTheDecodedInstruction : Prop :=
  ∀ (s : State) (i : Instr) (rest : List Byte),
    decode s.cfg.mode s.cfg.saeLenPolicy s.fetch = .instr i rest → step s = exec i s

/-- When memory holds an instruction's encoding at `pc`, below the top of the address space, the step is exec of
it (R28, R31, R61). The fetch is log 16; for an encoding that the meaning and not the decoder refuses see log 14. -/
def Obligations.StepRunsTheEncodedInstruction : Prop :=
  ∀ (s : State) (i : Instr),
    i.wfIn s.cfg.mode = true → s.pc.toNat + (encode i).length ≤ s.top →
    (∀ n (h : n < (encode i).length), Memory.read s.mem (s.pc.toNat + n) = some ((encode i)[n]'h)) →
    step s = exec i s

/-- An instruction that would run past the top of the address space is refused (R28): memory holds the bytes of
`encode i` up to the top, and the top cuts it (log 16; an encoding that the meaning would refuse is cut like any other,
log 14). -/
def Obligations.FetchPastTheTopIsRefused : Prop :=
  ∀ (s : State) (i : Instr),
    i.wfIn s.cfg.mode = true → s.pc.toNat < s.top → s.top < s.pc.toNat + (encode i).length →
    (∀ n (h : n < (encode i).length), s.pc.toNat + n < s.top →
      Memory.read s.mem (s.pc.toNat + n) = some ((encode i)[n]'h)) →
    step s = .refused .fetchPastTop

/-! ### Reset and the invariant -/

/-- Reset: MXCSR 1F80H, vector and opmask registers zero, the vector state not enabled (the reference values of
R33); memory lists nothing (log 1). -/
def Obligations.ResetValues : Prop :=
  State.reset.mxcsr = 0x1F80#32 ∧ (∀ i : BitVec 5, State.reset.readVec i = 0#512) ∧
  (∀ i : BitVec 3, State.reset.readMask i = 0#64) ∧ (∀ e : PrefixKind, State.reset.ctl.osStateOk e = false) ∧
  State.reset.mem = []

/-- The invariant holds at reset. -/
def Obligations.ResetMeetsTheInvariant : Prop := State.reset.Inv

/-- Every step keeps the invariant: memory canonical, `pc` inside the address space of the mode (R28), MXCSR[31:16]
zero (R25), no bit above MAXVL, no register above NVREG (R20), no mask bit above KW (R23). -/
def Obligations.StepKeepsTheInvariant : Prop := ∀ s t : State, s.Inv → step s = .next t → t.Inv

/-- At reset no form executes: each takes `#UD`, because the operating system has not enabled the vector state
(R33, R153). -/
def Obligations.NoFormIsEnabledAtReset : Prop :=
  ∀ i : Instr, Spellable i State.reset → exec i State.reset = .fault .ud

/-! ### The conversion -/

/-- In every configuration, every finite FP16 value, denormals included, converts to the FP32 pattern of exactly the same
value and sign, which is a normal number or a zero, and signals Denormal exactly if it is a denormal, and never Invalid
(R100, R101, R103, R105; P1, P2 and P5 of R112). -/
def Obligations.ConversionIsExactOnFiniteValues : Prop :=
  ∀ (c : CpuConfig) (h : Half), halfExp h ≠ 31#5 →
    singleValue (cvtH2s c h).r = halfValue h ∧ singleSign (cvtH2s c h).r = halfSign h ∧
    singleIsNormalOrZero (cvtH2s c h).r = true ∧
    (cvtH2s c h).den = halfIsDenormal h ∧ (cvtH2s c h).inv = false

/-- In every configuration infinities go to infinities of the same sign and signal nothing (P3, P5), and NaNs go to quiet
NaNs, signaling Invalid exactly if they are signaling NaNs (P4, P5 of R112). Where the configuration keeps the default of
D10 for a NaN (it does not name the NaN; log 18), the result is R104's: the sign is kept, the payload goes to the high
fraction bits, and a signaling NaN is made quiet by fraction bit 22. -/
def Obligations.ConversionOfInfinitiesAndNaNs : Prop :=
  ∀ (c : CpuConfig) (h : Half), halfExp h = 31#5 →
    let v := cvtH2s c h
    singleExp v.r = 255#8 ∧ v.den = false ∧ v.inv = halfIsSignalingNaN h ∧
    (halfFrac h = 0#10 → singleSign v.r = halfSign h ∧ singleFrac v.r = 0#23) ∧
    (halfFrac h ≠ 0#10 →
      singleIsQuietNaN v.r = true ∧
      (c.nanResults.lookup h = none →
        singleSign v.r = halfSign h ∧
        ∀ b, b < 22 → (singleFrac v.r).getLsbD b = (decide (13 ≤ b) && (halfFrac h).getLsbD (b - 13))))

/-- The configuration field of D10 admits every conversion that R112 does: every function `g` of the input alone that has
P2, P4 and P5, and on inputs that are no NaN the result that P1 and P3 fix (on those all configurations agree), is the
conversion of a configuration that differs in that field only. That the field is a table of NaN results is log 18. -/
def Obligations.EveryAdmissibleConversionIsConfigurable : Prop :=
  ∀ (c : CpuConfig) (g : Half → Converted),
    (∀ h, halfIsNaN h = false → (g h).r = (cvtH2s c h).r) →
    (∀ h, halfIsNaN h = true → singleIsQuietNaN (g h).r = true) →
    (∀ h, (g h).inv = halfIsSignalingNaN h ∧ (g h).den = halfIsDenormal h) →
    ∃ table : List (Half × QuietNaN),
      ∀ h, cvtH2s { c with nanResults := table } h = g h

/-- Two elements that are no signaling NaN and convert to the same pattern are the same: no bit of the source is
lost (R103, R104). For a quiet NaN this is said where the configuration keeps the default of D10 for it (log 18). -/
def Obligations.ConversionLosesNothing : Prop :=
  ∀ (c : CpuConfig) (h h' : Half), halfIsSignalingNaN h = false → halfIsSignalingNaN h' = false →
    (halfIsNaN h = true → c.nanResults.lookup h = none) → (halfIsNaN h' = true → c.nanResults.lookup h' = none) →
    (cvtH2s c h).r = (cvtH2s c h').r → h = h'

/-- Denormal inputs are never treated as zero: each converts to its own value, which is not zero, in every configuration;
and MXCSR.DAZ = 1 (bit 6) changes neither the result nor the signals of any instruction (R105). -/
def Obligations.DenormalsAreNeverTreatedAsZero : Prop :=
  (∀ (c : CpuConfig) (h : Half), halfIsDenormal h = true →
    singleValue (cvtH2s c h).r = halfValue h ∧ halfValue h ≠ 0) ∧
  ∀ (s : State) (i : Instr),
    let daz := { s with mxcsr := s.mxcsr ||| 0x40#32 }
    (∀ t, exec i s = .next t → exec i daz = .next { t with mxcsr := t.mxcsr ||| 0x40#32 }) ∧
    ∀ f, exec i s = .fault f → ∃ f', exec i daz = .fault f' ∧ f'.exception = f.exception

/-! ### Completion: where each form executes, and its result -/

/-- VCVTPH2PS, VEX, from a register: `vcvtph2psVex128` (R120) and `vcvtph2psVex256` (R121). The source may be the
destination (R122). -/
def Obligations.VexRegisterFormsComplete : Prop :=
  ∀ (s : State) (l256 p67 : Bool) (dst r : BitVec 4),
    let i := vexInstr l256 { p67 := p67, dst := dst, w := false, vvvv := 15#4, src := .reg r }
    let kl := if l256 then 8 else 4
    let elem := halfLane (s.readVec (r.setWidth 5))
    let inv := signalsInvalid (fun _ => true) kl elem
    i.wfIn s.cfg.mode = true → Enabled (Instr.form i) s → (inv = true → s.im = true) →
    ∃ t, exec i s = .next t ∧
      Wrote s t (dst.setWidth 5) kl (fun j => (cvtH2s s.cfg (elem j)).r) inv false (if p67 then 6 else 5) ∧
      FrameKept s t (dst.setWidth 5)

/-- VCVTPH2PS, VEX, from memory: `vcvtph2psVex128` reads 8 bytes (R120), `vcvtph2psVex256` 16 (R121), at any
alignment, element `j` at the address plus `2*j`, low byte first (R40, R42, R43). A 1-byte displacement is not
scaled (R81). -/
def Obligations.VexMemoryFormsComplete : Prop :=
  ∀ (s : State) (l256 p67 : Bool) (dst : BitVec 4) (a : AddrForm),
    let i := vexInstr l256 { p67 := p67, dst := dst, w := false, vvvv := 15#4, src := .mem a }
    let kl := if l256 then 8 else 4
    let addr := s.linear p67 i.length 1 a
    let elem := fun j => s.byteAt (addr + 2 * j + 1) ++ s.byteAt (addr + 2 * j)
    let inv := signalsInvalid (fun _ => true) kl elem
    i.wfIn s.cfg.mode = true → Enabled (Instr.form i) s → Readable s (Instr.form i) addr (2 * kl) →
    (inv = true → s.im = true) →
    ∃ t, exec i s = .next t ∧
      Wrote s t (dst.setWidth 5) kl (fun j => (cvtH2s s.cfg (elem j)).r) inv false i.length ∧
      FrameKept s t (dst.setWidth 5)

/-- VCVTPH2PS, EVEX, from a register: `vcvtph2psEvex128`, `vcvtph2psEvex256`, `vcvtph2psEvex512` (R130 to R133),
with merging- and zeroing-masking (R74). Denormals signal nothing (R107). -/
def Obligations.EvexRegisterFormsComplete : Prop :=
  ∀ (s : State) (vl : VecLen) (p67 z : Bool) (dst r : BitVec 5) (aaa : BitVec 3),
    let i := psInstr vl { p67 := p67, dst := dst, w := false, vvvv := 15#4, z := z, vp := true, aaa := aaa,
                          src := .reg r }
    let elem := halfLane (s.readVec r)
    let sel := laneSelected s aaa
    let inv := signalsInvalid sel vl.lanes elem
    i.wfIn s.cfg.mode = true → (z = true → aaa ≠ 0#3) → Enabled (Instr.form i) s → (inv = true → s.im = true) →
    ∃ t, exec i s = .next t ∧
      Wrote s t dst vl.lanes
        (fun j => if sel j then (cvtH2s s.cfg (elem j)).r else if z then 0#32 else singleLane (s.readVec dst) j)
        inv false (if p67 then 7 else 6) ∧
      FrameKept s t dst

/-- VCVTPH2PS, EVEX, from memory: `vcvtph2psEvex128`, `vcvtph2psEvex256`, `vcvtph2psEvex512` (R130 to R133) read 8,
16 or 32 bytes whatever the mask (R42, R47); a 1-byte displacement is scaled by as much (R82). -/
def Obligations.EvexMemoryFormsComplete : Prop :=
  ∀ (s : State) (vl : VecLen) (p67 z : Bool) (dst : BitVec 5) (aaa : BitVec 3) (a : AddrForm),
    let i := psInstr vl { p67 := p67, dst := dst, w := false, vvvv := 15#4, z := z, vp := true, aaa := aaa,
                          src := .mem a }
    let n := vl.bits / 16
    let addr := s.linear p67 i.length n a
    let elem := fun j => s.byteAt (addr + 2 * j + 1) ++ s.byteAt (addr + 2 * j)
    let sel := laneSelected s aaa
    let inv := signalsInvalid sel vl.lanes elem
    i.wfIn s.cfg.mode = true → (z = true → aaa ≠ 0#3) → Enabled (Instr.form i) s →
    Readable s (Instr.form i) addr n →
    NoAlignFault (Instr.form i) s addr n → (inv = true → s.im = true) →
    ∃ t, exec i s = .next t ∧
      Wrote s t dst vl.lanes
        (fun j => if sel j then (cvtH2s s.cfg (elem j)).r else if z then 0#32 else singleLane (s.readVec dst) j)
        inv false i.length ∧
      FrameKept s t dst

/-- VCVTPH2PSX from a register: `vcvtph2psxEvex128`, `vcvtph2psxEvex256`, `vcvtph2psxEvex512` (R140 to R143). A
denormal in a selected lane signals Denormal (R107). -/
def Obligations.PsxRegisterFormsComplete : Prop :=
  ∀ (s : State) (vl : VecLen) (p67 z : Bool) (dst r : BitVec 5) (aaa : BitVec 3),
    let i := psxInstr vl { p67 := p67, dst := dst, w := false, vvvv := 15#4, z := z, vp := true, aaa := aaa,
                           src := .reg r }
    let elem := halfLane (s.readVec r)
    let sel := laneSelected s aaa
    let inv := signalsInvalid sel vl.lanes elem
    let den := signalsDenormal sel vl.lanes elem
    i.wfIn s.cfg.mode = true → (z = true → aaa ≠ 0#3) → Enabled (Instr.form i) s →
    (inv = true → s.im = true) → (den = true → s.dm = true) →
    ∃ t, exec i s = .next t ∧
      Wrote s t dst vl.lanes
        (fun j => if sel j then (cvtH2s s.cfg (elem j)).r else if z then 0#32 else singleLane (s.readVec dst) j)
        inv den (if p67 then 7 else 6) ∧
      FrameKept s t dst

/-- VCVTPH2PSX from memory, not broadcast: `vcvtph2psxEvex128`, `vcvtph2psxEvex256`, `vcvtph2psxEvex512` (R140 to
R143). -/
def Obligations.PsxMemoryFormsComplete : Prop :=
  ∀ (s : State) (vl : VecLen) (p67 z : Bool) (dst : BitVec 5) (aaa : BitVec 3) (a : AddrForm),
    let i := psxInstr vl { p67 := p67, dst := dst, w := false, vvvv := 15#4, z := z, vp := true, aaa := aaa,
                           src := .mem a }
    let n := vl.bits / 16
    let addr := s.linear p67 i.length n a
    let elem := fun j => s.byteAt (addr + 2 * j + 1) ++ s.byteAt (addr + 2 * j)
    let sel := laneSelected s aaa
    let inv := signalsInvalid sel vl.lanes elem
    let den := signalsDenormal sel vl.lanes elem
    i.wfIn s.cfg.mode = true → (z = true → aaa ≠ 0#3) → Enabled (Instr.form i) s →
    Readable s (Instr.form i) addr n →
    NoAlignFault (Instr.form i) s addr n → (inv = true → s.im = true) → (den = true → s.dm = true) →
    ∃ t, exec i s = .next t ∧
      Wrote s t dst vl.lanes
        (fun j => if sel j then (cvtH2s s.cfg (elem j)).r else if z then 0#32 else singleLane (s.readVec dst) j)
        inv den i.length ∧
      FrameKept s t dst

/-- VCVTPH2PSX with a broadcast source: `vcvtph2psxEvex128`, `vcvtph2psxEvex256`, `vcvtph2psxEvex512` (R143, R144).
Two bytes are read, every selected lane converts them, and a 1-byte displacement is scaled by 2 (R82). -/
def Obligations.PsxBroadcastFormsComplete : Prop :=
  ∀ (s : State) (vl : VecLen) (p67 z : Bool) (dst : BitVec 5) (aaa : BitVec 3) (a : AddrForm),
    let i := psxInstr vl { p67 := p67, dst := dst, w := false, vvvv := 15#4, z := z, vp := true, aaa := aaa,
                           src := .memB a }
    let addr := s.linear p67 i.length 2 a
    let h := s.byteAt (addr + 1) ++ s.byteAt addr
    let sel := laneSelected s aaa
    let inv := signalsInvalid sel vl.lanes fun _ => h
    let den := signalsDenormal sel vl.lanes fun _ => h
    i.wfIn s.cfg.mode = true → (z = true → aaa ≠ 0#3) → Enabled (Instr.form i) s →
    Readable s (Instr.form i) addr 2 →
    NoAlignFault (Instr.form i) s addr 2 → (inv = true → s.im = true) → (den = true → s.dm = true) →
    ∃ t, exec i s = .next t ∧
      Wrote s t dst vl.lanes
        (fun j => if sel j then (cvtH2s s.cfg h).r else if z then 0#32 else singleLane (s.readVec dst) j)
        inv den i.length ∧
      FrameKept s t dst

/-- `{sae}`: `vcvtph2psEvex512` (R134) and `vcvtph2psxEvex512` (R145) complete whatever the elements and the mask
bits of MXCSR are, and no MXCSR flag is set (R110). -/
def Obligations.SaeFormsCompleteWithoutFlags : Prop :=
  ∀ (s : State) (psx p67 z : Bool) (dst r : BitVec 5) (aaa : BitVec 3),
    let x : EvexOps EvexSrc512 :=
      { p67 := p67, dst := dst, w := false, vvvv := 15#4, z := z, vp := true, aaa := aaa, src := .regSae r }
    let i : Instr := if psx then .vcvtph2psxEvex512 x else .vcvtph2psEvex512 x
    let sel := laneSelected s aaa
    i.wfIn s.cfg.mode = true → (z = true → aaa ≠ 0#3) → Enabled (Instr.form i) s →
    ∃ t, exec i s = .next t ∧
      Wrote s t dst 16
        (fun j => if sel j then (cvtH2s s.cfg (halfLane (s.readVec r) j)).r
          else if z then 0#32 else singleLane (s.readVec dst) j)
        false false (if p67 then 7 else 6) ∧
      FrameKept s t dst

/-! ### Where a form traps or is refused -/

/-- VEX.W = 1 raises `#UD` (R151). -/
def Obligations.VexWRaisesInvalidOpcode : Prop :=
  ∀ (s : State) (l256 : Bool) (x : VexOps),
    (vexInstr l256 x).wfIn s.cfg.mode = true → x.w = true → exec (vexInstr l256 x) s = .fault .ud

/-- Stored `vvvv` other than 1111b raises `#UD`, in any of the eight forms (R77, R152). -/
def Obligations.ReservedVvvvRaisesInvalidOpcode : Prop :=
  ∀ (s : State) (i : Instr), Spellable i s → (Instr.operands i).vvvv ≠ 15#4 → exec i s = .fault .ud

/-- EVEX.W = 1 raises `#UD` in any EVEX form, `{sae}` encodings included (R76, D17), and so does `EVEX.b = 1` with a
memory source on VCVTPH2PS (R135, D16). -/
def Obligations.EvexWAndForbiddenBroadcastRaiseInvalidOpcode : Prop :=
  ∀ (s : State) (i : Instr), Spellable i s →
    ((Instr.form i).enc = .evex → (Instr.operands i).w = true → exec i s = .fault .ud) ∧
    (∀ a, (Instr.form i).psx = false → (Instr.operands i).src = .mem a true → exec i s = .fault .ud)

/-- A form whose CPUID flags are not all true raises `#UD`: the table of R2 (R150 row 5). -/
def Obligations.MissingCpuidFlagRaisesInvalidOpcode : Prop :=
  ∀ (s : State) (l256 : Bool) (v : VexOps) (psx : Bool) (vl : VecLen) (x : EvexOps EvexSrc) (y : EvexOps EvexSrc512),
    (Spellable (vexInstr l256 v) s → s.cfg.f16c = false → exec (vexInstr l256 v) s = .fault .ud) ∧
    (Spellable (evexInstr psx vl x) s → vl ≠ .v512 → s.cfg.hasAvx512VL = false →
      exec (evexInstr psx vl x) s = .fault .ud) ∧
    (Spellable (psInstr vl x) s → s.cfg.hasAvx512F = false → exec (psInstr vl x) s = .fault .ud) ∧
    (Spellable (psxInstr vl x) s → s.cfg.hasAvx512Fp16 = false → exec (psxInstr vl x) s = .fault .ud) ∧
    (Spellable (.vcvtph2psEvex512 y) s → s.cfg.hasAvx512F = false → exec (.vcvtph2psEvex512 y) s = .fault .ud) ∧
    (Spellable (.vcvtph2psxEvex512 y) s → s.cfg.hasAvx512Fp16 = false → exec (.vcvtph2psxEvex512 y) s = .fault .ud)

/-- Without CR4.OSXSAVE, or without XCR0[2:1] = 11b, any form raises `#UD`; without XCR0[7:5] = 111b any EVEX form
does (R153). -/
def Obligations.VectorStateNotEnabledRaisesInvalidOpcode : Prop :=
  ∀ (s : State) (i : Instr), Spellable i s →
    (s.ctl.cr4Osxsave = false ∨ s.ctl.xcr0.getLsbD 1 = false ∨ s.ctl.xcr0.getLsbD 2 = false ∨
      ((Instr.form i).enc = .evex ∧
        (s.ctl.xcr0.getLsbD 5 = false ∨ s.ctl.xcr0.getLsbD 6 = false ∨ s.ctl.xcr0.getLsbD 7 = false))) →
    exec i s = .fault .ud

/-- `#NM`, which has no error code, is raised when CR0.TS = 1, after the `#UD` checks pass, by all eight forms
(R154). -/
def Obligations.TaskSwitchedRaisesDeviceNotAvailable : Prop :=
  ∀ (s : State) (i : Instr), Legal i s → (Instr.form i).cpuidOk s.cfg = true →
    s.ctl.osStateOk (Instr.form i).enc = true → s.ctl.cr0Ts = true →
    exec i s = .fault .nm ∧ Fault.errorCode .nm = none

/-- An unmasked exception, signalled by any selected lane, raises `#XM`, or `#UD` without `osxmmexcpt`; the only
thing known of MXCSR is that IE and DE are at least their old values (R107, R109, R158, R162). `src` is the operand
read, from a register or memory. -/
def Obligations.UnmaskedExceptionFaults : Prop :=
  ∀ (s : State) (i : Instr) (src : Nat → Half),
    let f := Instr.form i
    let o := Instr.operands i
    let sel := laneSelected s o.aaa
    Legal i s → Enabled f s → readSource f o s = .ok src → o.sae = false →
    ((signalsInvalid sel f.vl.lanes src = true ∧ s.im = false) ∨
      (f.psx = true ∧ signalsDenormal sel f.vl.lanes src = true ∧ s.dm = false)) →
    ∃ flags : BitVec 2,
      exec i s = .fault (if s.ctl.cr4Osxmmexcpt then .xm (s.mxcsr ||| flags.setWidth 32)
        else .udSimd (s.mxcsr ||| flags.setWidth 32))

/-- A stored `V'` that is not 1 is refused (R78); so is `z = 1` with `aaa = 000b` (R74); so are, in Mode32, 67H
(R62) and registers above 7 (R66), in the order of R79. -/
def Obligations.ReservedFieldsAreRefusedByTheMeaning : Prop :=
  ∀ (s : State) (i : Instr),
    let o := Instr.operands i
    (s.cfg.mode = .mode32 → i.p67 = true → exec i s = .refused (.encoding .addr16)) ∧
    ((s.cfg.mode = .mode32 → i.p67 = false) → o.vp = false → exec i s = .refused (.encoding .evexVprime)) ∧
    ((s.cfg.mode = .mode32 → i.p67 = false) → o.vp = true → o.z = true → o.aaa = 0#3 →
      exec i s = .refused (.encoding .zWithoutMask)) ∧
    (s.cfg.mode = .mode32 → i.p67 = false → o.vp = true → (o.z = true → o.aaa ≠ 0#3) → i.low8 = false →
      exec i s = .refused (.encoding .mode32Regs))

/-- A memory operand that runs past the top of the address space is refused (R45). -/
def Obligations.OperandPastTheTopIsRefused : Prop :=
  ∀ (s : State) (i : Instr) (a : AddrForm) (b : Bool),
    let f := Instr.form i
    let o := Instr.operands i
    Legal i s → Enabled f s → o.src = .mem a b → s.top < operandAddr f o s a b + f.readBytes b →
    exec i s = .refused .operandPastTop

/-- `#PF` at the first byte of the operand that is not mapped, whatever the write mask selects, where the oracle gives
no other answer to the read; its address goes to CR2 (R47, R156; that an unlisted address is not mapped is log 1, its
error code is free, log 2). -/
def Obligations.UnmappedOperandRaisesPageFault : Prop :=
  ∀ (s : State) (i : Instr) (a : AddrForm) (b : Bool) (n : Nat),
    let f := Instr.form i
    let o := Instr.operands i
    let addr := operandAddr f o s a b
    let size := f.readBytes b
    Legal i s → Enabled f s → o.src = .mem a b → addr + size ≤ s.top → n < size →
    (∀ x, addr ≤ x → x < addr + size → denialAt s f addr size x = none) →
    (∀ x, addr ≤ x → x < addr + n → (Memory.read s.mem x).isSome = true) →
    Memory.read s.mem (addr + n) = none →
    ∃ code, exec i s = .fault (.pf code (BitVec.ofNat 64 (addr + n))) ∧
      (faultState (.pf code (BitVec.ofNat 64 (addr + n))) s).cr2 = BitVec.ofNat 64 (addr + n)

/-- The faults the oracle answers on the operand read come in the order of R161: `#SS(0)` or `#GP(0)` at any byte of
the operand before a page fault or `#AC(0)` at any other, even a lower one (R155; that the oracle's answers stand in
State is log 3). -/
def Obligations.SegmentFaultsComeBeforePageFaults : Prop :=
  ∀ (s : State) (i : Instr) (a : AddrForm) (b : Bool) (x : Nat) (d : MemFault),
    let f := Instr.form i
    let o := Instr.operands i
    let addr := operandAddr f o s a b
    let answer := denialAt s f addr (f.readBytes b)
    Legal i s → Enabled f s → o.src = .mem a b → addr + f.readBytes b ≤ s.top →
    addr ≤ x → x < addr + f.readBytes b → answer x = some d → (d = .ss ∨ d = .gp) →
    (∀ y, addr ≤ y → y < x → answer y ≠ some .ss ∧ answer y ≠ some .gp) →
    exec i s = .fault (if d = .ss then .ss else .gp)

/-- The oracle may answer each read its own way (R41): whatever it answers otherwise, there are answers that give a
form's read of `n` bytes at `a` any fault of R155 to R157, or, where they are mapped, its bytes, and that leave alone the
reads of every other form, address and size, and the reads of every other turn of the run. That the answers stand in
State so is log 3. The page fault is one at the operand's first byte. `#AC(0)` is one where the bytes are mapped and the
model admits it: R43 and R157 leave open what misaligned means, and `a % n ≠ 0` is the model's choice of log 4, as is
EFLAGS.AC at bit 18, behind `alignmentChecked`, of log 11. -/
def Obligations.OracleMayAnswerEachReadItsOwnWay : Prop :=
  ∀ (s : State) (f : Form) (a n : Nat) (m : Option MemFault), 0 < n →
    (m = none ∨ m = some .ac → ∀ x, a ≤ x → x < a + n → (Memory.read s.mem x).isSome = true) →
    (m = some .ac → f.enc = .evex ∧ s.cfg.evexAc = true ∧ s.alignmentChecked = true ∧ a % n ≠ 0) →
    ∃ d : List (ReadKey × MemFault),
      let s' := { s with denied := d }
      oracleFault s' f a n = (match m with
        | none => none
        | some .ss => some .ss
        | some .gp => some .gp
        | some (.pf code) => some (.pf code (BitVec.ofNat 64 a))
        | some .ac => some .ac) ∧
      (∀ (g : Form) (b k x : Nat), g ≠ f ∨ b ≠ a ∨ k ≠ n → denialAt s' g b k x = denialAt s g b k x) ∧
      (∀ (u : Nat) (g : Form) (b k x : Nat), u ≠ s.turn →
        denialAt { s' with turn := u } g b k x = denialAt { s with turn := u } g b k x)

/-- Forms 1 and 2 never raise `#AC(0)`, whatever the oracle holds; forms 3 to 8 never do so without `evex_ac`, or with
alignment checking disabled (CR0.AM, EFLAGS.AC, privilege level 3), or from a register, or on an aligned memory operand
(R43, R157; what misaligned means is log 4, and that EFLAGS.AC is bit 18 is the model's choice of log 11). -/
def Obligations.NoAlignmentFaultWhereNotAllowed : Prop :=
  ∀ (s : State) (i : Instr),
    ((Instr.form i).enc = .vex ∨ s.cfg.evexAc = false ∨ s.ctl.cr0Am = false ∨ s.rflags.getLsbD 18 = false ∨
      s.ctl.cpl ≠ 3#2 ∨
      ∀ a b, (Instr.operands i).src = .mem a b →
        operandAddr (Instr.form i) (Instr.operands i) s a b % (Instr.form i).readBytes b = 0) →
    exec i s ≠ .fault .ac

/-- A misaligned, readable memory operand of forms 3 to 8 while alignment checking is enabled and `evex_ac` is true:
the instruction raises `#AC(0)` exactly when the oracle answers so, an answer of its own for each state, form, address
and size (R41, R43, R157; log 3, what misaligned means is log 4, and EFLAGS.AC at bit 18 is log 11). -/
def Obligations.MisalignedEvexOperandTakesTheOraclesAnswer : Prop :=
  ∀ (s : State) (i : Instr) (a : AddrForm) (b : Bool),
    let f := Instr.form i
    let o := Instr.operands i
    let addr := operandAddr f o s a b
    let n := f.readBytes b
    Legal i s → Enabled f s → f.enc = .evex → o.src = .mem a b → Readable s f addr n → s.cfg.evexAc = true →
    s.alignmentChecked = true → addr % n ≠ 0 →
    (exec i s = .fault .ac ↔ ∃ x, addr ≤ x ∧ x < addr + n ∧ denialAt s f addr n x = some .ac)

/-- Faults are precise: in the fault outcome of a step, or of any instruction, the vector registers, opmask
registers, general registers, `pc` and memory hold what they held; so does CR2 but after a page fault, which records its
address there (R156), and so does MXCSR but for the bits IE and DE after a SIMD floating-point exception, each at
least its old value (R109, R165). That `faultState` is the state of the outcome is log 12. -/
def Obligations.FaultsArePrecise : Prop :=
  ∀ (s : State) (f : Fault), (step s = .fault f ∨ ∃ i, exec i s = .fault f) →
    let t := faultState f s
    t.zmm = s.zmm ∧ t.k = s.k ∧ t.gpr = s.gpr ∧ t.pc = s.pc ∧ (∀ a, Memory.read t.mem a = Memory.read s.mem a) ∧
    t.rflags = s.rflags ∧ t.ctl = s.ctl ∧ t.cfg = s.cfg ∧ t.endPc = s.endPc ∧ t.denied = s.denied ∧
    t.cr2 = (match f with
      | .pf _ a => a
      | .ud | .nm | .ss | .gp | .ac | .xm _ | .udSimd _ => s.cr2) ∧
    (∀ b, t.mxcsr.getLsbD b ≠ s.mxcsr.getLsbD b →
      b < 2 ∧ s.mxcsr.getLsbD b = false ∧ (f = .xm t.mxcsr ∨ f = .udSimd t.mxcsr))

/-- The vector numbers and error codes of R160 (that a code has 32 bits is the model's choice of log 11). -/
def Obligations.ExceptionNumbers : Prop :=
  (∀ f : Fault, f.errorCode = match f.exception with
    | .ss | .gp | .ac => some 0#32
    | .pf => (match f with | .pf code _ => some code | _ => none)
    | .ud | .nm | .xm => none) ∧
  Exception.ud.vector = 6 ∧ Exception.nm.vector = 7 ∧ Exception.ss.vector = 12 ∧ Exception.gp.vector = 13 ∧
  Exception.pf.vector = 14 ∧ Exception.ac.vector = 17 ∧ Exception.xm.vector = 19 ∧
  (∀ m, (Fault.udSimd m).exception = .ud)

/-! ### The whole machine -/

/-- No form writes memory, a general register, an opmask register, the status flags, a control register, or any
vector register but its destination (R8, R23, R26, R29, R30, R123). -/
def Obligations.CompletedFormsKeepTheFrame : Prop :=
  ∀ (s t : State) (i : Instr), exec i s = .next t → FrameKept s t (Instr.operands i).dst

/-- Of MXCSR only IE and DE can change, and only from 0 to 1 (R108, R115); VCVTPH2PS never changes DE (R107). -/
def Obligations.OnlyStickyFlagsOfMxcsrChange : Prop :=
  ∀ (s t : State) (i : Instr), exec i s = .next t →
    ∀ b, t.mxcsr.getLsbD b ≠ s.mxcsr.getLsbD b →
      s.mxcsr.getLsbD b = false ∧ (b = 0 ∨ (b = 1 ∧ (Instr.form i).psx = true))

/-- `pc` advances by the instruction's length, modulo 2^64 in Mode64 and 2^32 in Mode32 (R28, R114). -/
def Obligations.PcAdvancesByTheLength : Prop :=
  ∀ (s t : State) (i : Instr), exec i s = .next t →
    t.pc = match s.cfg.mode with
      | .mode64 => s.pc + BitVec.ofNat 64 i.length
      | .mode32 => ((s.pc + BitVec.ofNat 64 i.length).setWidth 32).setWidth 64

/-- DAZ, RC, FTZ and every other bit of MXCSR but IM and DM play no part in what a completed form writes to its
destination (R27, R105, R111). -/
def Obligations.OtherMxcsrBitsPlayNoPart : Prop :=
  ∀ (s t : State) (i : Instr) (m : BitVec 32),
    m.getLsbD 7 = s.im → m.getLsbD 8 = s.dm → exec i s = .next t →
    ∃ t', exec i { s with mxcsr := m } = .next t' ∧ t'.zmm = t.zmm ∧ t'.pc = t.pc

/-- Only the low `VL/2` bits of a register source are read (R22, R72): two states that differ in the bits above, of
a register that is not the destination, give the same destination, flags and `pc`. -/
def Obligations.UpperSourceBitsAreNotRead : Prop :=
  ∀ (s t : State) (i : Instr) (r : BitVec 5) (sae : Bool) (v : VReg),
    let f := Instr.form i
    let o := Instr.operands i
    o.src = .reg r sae → r ≠ o.dst →
    (∀ b, b < f.vl.bits / 2 → v.getLsbD b = (s.readVec r).getLsbD b) →
    exec i s = .next t →
    ∃ t', exec i (s.writeVec r v) = .next t' ∧ t'.readVec o.dst = t.readVec o.dst ∧ t'.mxcsr = t.mxcsr ∧ t'.pc = t.pc

/-- A register source reads no memory: what memory holds and what the oracle denies do not matter (R42). -/
def Obligations.RegisterSourcesReadNoMemory : Prop :=
  ∀ (s t : State) (i : Instr) (r : BitVec 5) (sae : Bool) (m : List Host.Cell)
      (d : List (ReadKey × MemFault)),
    (Instr.operands i).src = .reg r sae → exec i s = .next t →
    exec i { s with mem := m, denied := d } = .next { t with mem := m, denied := d }

/-- The width of an opmask register changes no result (R23): bits above 15 are never read. -/
def Obligations.MaskWidthChangesNoResult : Prop :=
  ∀ (s t : State) (i : Instr) (kw : MaskWidth), exec i s = .next t →
    exec i { s with cfg := { s.cfg with kw := kw } } = .next { t with cfg := { t.cfg with kw := kw } }

/-- A completed form writes a register that exists: its number is below NVREG (R20). -/
def Obligations.DestinationRegisterExists : Prop :=
  ∀ (s t : State) (i : Instr), exec i s = .next t → (Instr.operands i).dst.toNat < s.cfg.nvreg

/-- An instruction whose mask selects no lane signals nothing and sets no flag: it can raise no SIMD floating-point
exception, and where it completes MXCSR is unchanged (R108, R133, R143). -/
def Obligations.EmptyMaskSignalsNothing : Prop :=
  ∀ (s : State) (i : Instr),
    (∀ j, j < (Instr.form i).vl.lanes → laneSelected s (Instr.operands i).aaa j = false) →
    (∀ m, exec i s ≠ .fault (.xm m) ∧ exec i s ≠ .fault (.udSimd m)) ∧
    ∀ t, exec i s = .next t → t.mxcsr = s.mxcsr

/-- The elements of unselected lanes do not matter to the outcome, the destination, MXCSR or `pc` (R108, R133, R143):
neither those of a register source that is not the destination, nor those of a memory source that is not a broadcast,
as long as the same bytes are mapped. -/
def Obligations.UnselectedLanesDoNotMatter : Prop :=
  ∀ (s : State) (i : Instr),
    let f := Instr.form i
    let o := Instr.operands i
    let same (s' : State) :=
      (∀ t, exec i s = .next t → ∃ t', exec i s' = .next t' ∧ t'.readVec o.dst = t.readVec o.dst ∧
        t'.mxcsr = t.mxcsr ∧ t'.pc = t.pc) ∧
      (∀ x, exec i s = .fault x → ∃ x', exec i s' = .fault x' ∧ x'.exception = x.exception) ∧
      (∀ x, exec i s = .refused x → exec i s' = .refused x)
    (∀ (r : BitVec 5) (sae : Bool) (v : VReg), o.src = .reg r sae → r ≠ o.dst →
      (∀ j, j < f.vl.lanes → laneSelected s o.aaa j = true → halfLane v j = halfLane (s.readVec r) j) →
      same (s.writeVec r v)) ∧
    (∀ (a : AddrForm) (m : List Host.Cell), o.src = .mem a false →
      (∀ x, (Memory.read m x).isSome = (Memory.read s.mem x).isSome) →
      (∀ j, j < f.vl.lanes → laneSelected s o.aaa j = true →
        ∀ x, operandAddr f o s a false + 2 * j ≤ x → x < operandAddr f o s a false + 2 * j + 2 →
          Memory.read m x = Memory.read s.mem x) →
      same { s with mem := m })

/-- The linear address, as sums of bit vectors of the address width: base plus scaled index plus displacement, the
carry dropped; RIP-relative in Mode64, absolute in Mode32; a 1-byte displacement times `n` (R44, R45, R69, R70). -/
def Obligations.EffectiveAddressIsTheSum : Prop :=
  ∀ (s : State) (p67 : Bool) (len n : Nat) (r x : BitVec 4) (sc : BitVec 2) (d : Disp) (v : BitVec 32),
    let w := s.addrWidth p67
    let gpr := fun g : BitVec 4 => (s.readGpr g).setWidth w
    let index := if x = 4#4 then 0#w else gpr x <<< sc.toNat
    let disp := match d with
      | .absent => 0#w
      | .d8 u => u.signExtend w * BitVec.ofNat w n
      | .d32 u => u.signExtend w
    let pcNext := match s.cfg.mode with
      | .mode64 => (s.pc + BitVec.ofNat 64 len).setWidth w
      | .mode32 => 0#w
    s.linear p67 len n (.base r d) = (gpr r + disp).toNat ∧
    s.linear p67 len n (.disp32 v) = (pcNext + v.signExtend w).toNat ∧
    s.linear p67 len n (.sib sc x r d) = (gpr r + index + disp).toNat ∧
    s.linear p67 len n (.sibNoBase sc x v) = (index + v.signExtend w).toNat

/-- VCVTPH2PS in its VEX and its unmasked EVEX encoding of the same length, from the same source to the same register,
leave the same vector registers and MXCSR where both are enabled (R120, R121, R133). From memory, where both encodings
address the same operand (their lengths and displacement scales differ, R44, R81, R82) and the oracle answers the EVEX
form's read with the bytes too (R41; log 3, log 4). -/
def Obligations.VexAndEvexEncodingsAgree : Prop :=
  ∀ (s t : State) (l256 p67 : Bool) (dst : BitVec 4) (src : VexSrc),
    let vl : VecLen := if l256 then .v256 else .v128
    let v := vexInstr l256 { p67 := p67, dst := dst, w := false, vvvv := 15#4, src := src }
    let e := psInstr vl { p67 := p67, dst := dst.setWidth 5, w := false, vvvv := 15#4, z := false, vp := true,
                          aaa := 0#3, src := match src with
                            | .reg r => .reg (r.setWidth 5)
                            | .mem a => .mem a }
    Enabled (Instr.form e) s →
    (∀ a, src = .mem a →
      let n := vl.bits / 16
      let addr := s.linear p67 e.length n a
      addr = s.linear p67 v.length 1 a ∧ Readable s (Instr.form e) addr n ∧ NoAlignFault (Instr.form e) s addr n) →
    exec v s = .next t →
    ∃ t', exec e s = .next t' ∧ t'.zmm = t.zmm ∧ t'.mxcsr = t.mxcsr

/-- VCVTPH2PSX and VCVTPH2PS in EVEX encodings of the same fields, `{sae}` included, give the same lanes: they differ in
the Denormal signal only (R102, R107, 90_conflicts.md C5). The source is not a broadcast; from memory, the oracle
answers the VCVTPH2PS form's read with the bytes too, since it answers by form (R41; log 3, log 4). -/
def Obligations.PsxAndPsGiveTheSameLanes : Prop :=
  ∀ (s t : State) (i : Instr),
    let f := Instr.form (psTwin i)
    let o := Instr.operands i
    (Instr.form i).psx = true → o.bcst = false →
    (∀ a, o.src = .mem a false →
      Readable s f (operandAddr f o s a false) (f.readBytes false) ∧
      NoAlignFault f s (operandAddr f o s a false) (f.readBytes false)) →
    exec i s = .next t →
    ∃ t', exec (psTwin i) s = .next t' ∧ t'.zmm = t.zmm ∧ t'.pc = t.pc ∧ t'.ie = t.ie ∧ t'.de = s.de
end

