-- ==== Sys2Proof/Laws/Conversion.lean ====
section
/-! SUPPORT. The fields of a single precision value, and the conversion class by class (40_conversion.md R104), and what a
configuration makes of it (R112). -/

namespace Sys2Proof.Machine

@[simp] theorem singleSign_mkSingle (s : BitVec 1) (e : BitVec 8) (f : BitVec 23) :
    singleSign (mkSingle s e f) = s := by
  apply BitVec.eq_of_getLsbD_eq
  intro b hb
  have h0 : b = 0 := by omega
  subst h0
  rw [singleSign, mkSingle, BitVec.getLsbD_extractLsb', BitVec.getLsbD_append, BitVec.getLsbD_append]
  simp

@[simp] theorem singleExp_mkSingle (s : BitVec 1) (e : BitVec 8) (f : BitVec 23) :
    singleExp (mkSingle s e f) = e := by
  apply BitVec.eq_of_getLsbD_eq
  intro b hb
  rw [singleExp, mkSingle, BitVec.getLsbD_extractLsb', BitVec.getLsbD_append, BitVec.getLsbD_append]
  have h1 : ¬ 23 + b < 23 := by omega
  simp [h1, hb]

@[simp] theorem singleFrac_mkSingle (s : BitVec 1) (e : BitVec 8) (f : BitVec 23) :
    singleFrac (mkSingle s e f) = f := by
  apply BitVec.eq_of_getLsbD_eq
  intro b hb
  rw [singleFrac, mkSingle, BitVec.getLsbD_extractLsb', BitVec.getLsbD_append, BitVec.getLsbD_append]
  simp [hb]

/-- A single precision value is its three fields. -/
theorem mkSingle_inj {s s' : BitVec 1} {e e' : BitVec 8} {f f' : BitVec 23} (h : mkSingle s e f = mkSingle s' e' f') :
    s = s' ∧ e = e' ∧ f = f' :=
  ⟨by simpa using congrArg singleSign h, by simpa using congrArg singleExp h, by simpa using congrArg singleFrac h⟩

/-- The position found is that of the highest set bit: `2^p ≤ f < 2^(p+1)` (R104). -/
theorem topBit_spec {f : BitVec 10} (hf : f ≠ 0#10) :
    topBit f 9 ≤ 9 ∧ 2 ^ topBit f 9 ≤ f.toNat ∧ f.toNat < 2 ^ (topBit f 9 + 1) := by
  revert f
  decide +kernel

section Classes
variable {h : Half}

theorem cvtH2sDefault_zero (he : halfExp h = 0#5) (hf : halfFrac h = 0#10) :
    cvtH2sDefault h =
      { r := mkSingle (halfSign h) 0#8 0#23, inv := false, den := false } := by
  simp [cvtH2sDefault, he, hf]

theorem cvtH2sDefault_denormal (he : halfExp h = 0#5) (hf : halfFrac h ≠ 0#10) :
    cvtH2sDefault h =
      { r := mkSingle (halfSign h) (BitVec.ofNat 8 (topBit (halfFrac h) 9 + 103))
          ((halfFrac h).setWidth 23 <<< (23 - topBit (halfFrac h) 9)), inv := false, den := true } := by
  simp [cvtH2sDefault, he, hf]

theorem cvtH2sDefault_normal (he : halfExp h ≠ 0#5) (he' : halfExp h ≠ 31#5) :
    cvtH2sDefault h =
      { r := mkSingle (halfSign h) (BitVec.ofNat 8 ((halfExp h).toNat + 112)) (halfFrac h ++ 0#13),
        inv := false, den := false } := by
  simp [cvtH2sDefault, he, he']

theorem cvtH2sDefault_infinity (he : halfExp h = 31#5) (hf : halfFrac h = 0#10) :
    cvtH2sDefault h =
      { r := mkSingle (halfSign h) 255#8 0#23, inv := false, den := false } := by
  simp [cvtH2sDefault, he, hf]

theorem cvtH2sDefault_quietNaN (he : halfExp h = 31#5) (hf : halfFrac h ≠ 0#10) (hq : (halfFrac h).getLsbD 9 = true) :
    cvtH2sDefault h =
      { r := mkSingle (halfSign h) 255#8 (halfFrac h ++ 0#13), inv := false, den := false } := by
  simp only [cvtH2sDefault, he, hf, hq]
  simp

theorem cvtH2sDefault_signalingNaN (he : halfExp h = 31#5) (hf : halfFrac h ≠ 0#10) (hq : (halfFrac h).getLsbD 9 = false) :
    cvtH2sDefault h =
      { r := mkSingle (halfSign h) 255#8 (1#1 ++ (halfFrac h).extractLsb' 0 9 ++ 0#13),
        inv := true, den := false } := by
  simp only [cvtH2sDefault, he, hf, hq]
  simp

end Classes

/-! ### The conversion of a configuration (R112) -/

section Configured
variable {c : CpuConfig} {h : Half}

@[simp] theorem cvtH2sDefault_inv (h : Half) : (cvtH2sDefault h).inv = halfIsSignalingNaN h := by
  unfold halfIsSignalingNaN
  by_cases he : halfExp h = 0#5
  · by_cases hf : halfFrac h = 0#10
    · simp [cvtH2sDefault_zero he hf, hf]
    · simp [cvtH2sDefault_denormal he hf, he]
  · by_cases he' : halfExp h = 31#5
    · by_cases hf : halfFrac h = 0#10
      · simp [cvtH2sDefault_infinity he' hf, hf]
      · cases hq : (halfFrac h).getLsbD 9
        · rw [cvtH2sDefault_signalingNaN he' hf hq]; simp [he', hf]
        · rw [cvtH2sDefault_quietNaN he' hf hq]; simp
    · simp [cvtH2sDefault_normal he he', he']

@[simp] theorem cvtH2sDefault_den (h : Half) : (cvtH2sDefault h).den = halfIsDenormal h := by
  unfold halfIsDenormal
  by_cases he : halfExp h = 0#5
  · by_cases hf : halfFrac h = 0#10
    · simp [cvtH2sDefault_zero he hf, hf]
    · simp [cvtH2sDefault_denormal he hf, he, hf]
  · by_cases he' : halfExp h = 31#5
    · by_cases hf : halfFrac h = 0#10
      · simp [cvtH2sDefault_infinity he' hf, he']
      · cases hq : (halfFrac h).getLsbD 9
        · rw [cvtH2sDefault_signalingNaN he' hf hq]; simp [he]
        · rw [cvtH2sDefault_quietNaN he' hf hq]; simp [he]
    · simp [cvtH2sDefault_normal he he', he]

/-- All a configuration can do: the default of R104, or, for a NaN input it names, the quiet NaN it gives, with the
default's signals. -/
theorem cvtH2s_cases (c : CpuConfig) (h : Half) :
    cvtH2s c h = cvtH2sDefault h ∨
      ∃ q, halfIsNaN h = true ∧ c.nanResults.lookup h = some q ∧
        cvtH2s c h = { cvtH2sDefault h with r := quietSingle q } := by
  unfold cvtH2s configuredNaN
  cases hn : halfIsNaN h
  · exact .inl rfl
  · cases hl : c.nanResults.lookup h with
    | none => exact .inl rfl
    | some q => exact .inr ⟨q, rfl, rfl, rfl⟩

/-- On an input that is no NaN every configuration has the conversion of R104 (P1, P3). -/
theorem cvtH2s_of_not_nan (hn : halfIsNaN h = false) : cvtH2s c h = cvtH2sDefault h := by
  simp [cvtH2s, configuredNaN, hn]

/-- So has, on a NaN, a configuration that does not name it. -/
theorem cvtH2s_of_lookup_none (hl : c.nanResults.lookup h = none) : cvtH2s c h = cvtH2sDefault h := by
  simp [cvtH2s, configuredNaN, hl]

/-- On a NaN that the configuration names, the result is the one it gives. -/
theorem cvtH2s_of_lookup_some {q : QuietNaN} (hn : halfIsNaN h = true) (hl : c.nanResults.lookup h = some q) :
    cvtH2s c h = { cvtH2sDefault h with r := quietSingle q } := by
  simp [cvtH2s, configuredNaN, hn, hl]

/-- Invalid is signaled exactly for a signaling NaN (P5). -/
@[simp] theorem cvtH2s_inv (c : CpuConfig) (h : Half) : (cvtH2s c h).inv = halfIsSignalingNaN h := by
  rcases cvtH2s_cases c h with e | ⟨_, -, -, e⟩ <;> rw [e] <;> simp

/-- Denormal is signaled exactly for a denormal input (P2). -/
@[simp] theorem cvtH2s_den (c : CpuConfig) (h : Half) : (cvtH2s c h).den = halfIsDenormal h := by
  rcases cvtH2s_cases c h with e | ⟨_, -, -, e⟩ <;> rw [e] <;> simp

/-- A configured result is a quiet NaN (P4). -/
@[simp] theorem singleIsQuietNaN_quietSingle (q : QuietNaN) : singleIsQuietNaN (quietSingle q) = true := by
  have hb : (1#1 ++ q.payload).getLsbD 22 = true := by rw [BitVec.getLsbD_append]; simp
  simpa [singleIsQuietNaN, quietSingle] using hb

/-- The conversion depends on the table of NaN results alone. -/
theorem cvtH2s_congr {c' : CpuConfig} (hc : c'.nanResults = c.nanResults) : cvtH2s c' h = cvtH2s c h := by
  simp [cvtH2s, configuredNaN, hc]

end Configured

/-- A half precision value is its three fields (R100). -/
theorem half_ext {h h' : Half} (hs : halfSign h = halfSign h') (he : halfExp h = halfExp h')
    (hf : halfFrac h = halfFrac h') : h = h' := by
  apply BitVec.eq_of_getLsbD_eq
  intro b hb
  rcases Nat.lt_or_ge b 10 with h1 | h1
  · simpa [halfFrac, BitVec.getLsbD_extractLsb', h1] using congrArg (BitVec.getLsbD · b) hf
  · rcases Nat.lt_or_ge b 15 with h2 | h2
    · have h3 : b - 10 < 5 := by omega
      have h4 : 10 + (b - 10) = b := by omega
      have := congrArg (BitVec.getLsbD · (b - 10)) he
      simpa only [halfExp, BitVec.getLsbD_extractLsb', h3, h4, decide_true, Bool.true_and] using this
    · have h3 : b = 15 := by omega
      subst h3
      have := congrArg (BitVec.getLsbD · 0) hs
      simpa [halfSign, BitVec.getLsbD_extractLsb'] using this

end Sys2Proof.Machine
end

