-- ==== Sys2Proof/Laws/State.lean ====
section
/-! SUPPORT. One lemma for each field and each update of State. -/

namespace Sys2Proof.Machine

section WriteVec
variable (s : State) (i : BitVec 5) (v : VReg)
@[simp] theorem writeVec_cfg : (s.writeVec i v).cfg = s.cfg := rfl
@[simp] theorem writeVec_ctl : (s.writeVec i v).ctl = s.ctl := rfl
@[simp] theorem writeVec_zmm : (s.writeVec i v).zmm = s.zmm.set i.toNat (s.vecMask v) i.isLt := rfl
@[simp] theorem writeVec_k : (s.writeVec i v).k = s.k := rfl
@[simp] theorem writeVec_mxcsr : (s.writeVec i v).mxcsr = s.mxcsr := rfl
@[simp] theorem writeVec_rflags : (s.writeVec i v).rflags = s.rflags := rfl
@[simp] theorem writeVec_gpr : (s.writeVec i v).gpr = s.gpr := rfl
@[simp] theorem writeVec_pc : (s.writeVec i v).pc = s.pc := rfl
@[simp] theorem writeVec_cr2 : (s.writeVec i v).cr2 = s.cr2 := rfl
@[simp] theorem writeVec_endPc : (s.writeVec i v).endPc = s.endPc := rfl
@[simp] theorem writeVec_mem : (s.writeVec i v).mem = s.mem := rfl
@[simp] theorem writeVec_denied : (s.writeVec i v).denied = s.denied := rfl
@[simp] theorem writeVec_turn : (s.writeVec i v).turn = s.turn := rfl
end WriteVec

section SetMxcsr
variable (s : State) (v : BitVec 32)
@[simp] theorem setMxcsr_cfg : (s.setMxcsr v).cfg = s.cfg := rfl
@[simp] theorem setMxcsr_ctl : (s.setMxcsr v).ctl = s.ctl := rfl
@[simp] theorem setMxcsr_zmm : (s.setMxcsr v).zmm = s.zmm := rfl
@[simp] theorem setMxcsr_k : (s.setMxcsr v).k = s.k := rfl
@[simp] theorem setMxcsr_mxcsr : (s.setMxcsr v).mxcsr = v := rfl
@[simp] theorem setMxcsr_rflags : (s.setMxcsr v).rflags = s.rflags := rfl
@[simp] theorem setMxcsr_gpr : (s.setMxcsr v).gpr = s.gpr := rfl
@[simp] theorem setMxcsr_pc : (s.setMxcsr v).pc = s.pc := rfl
@[simp] theorem setMxcsr_cr2 : (s.setMxcsr v).cr2 = s.cr2 := rfl
@[simp] theorem setMxcsr_endPc : (s.setMxcsr v).endPc = s.endPc := rfl
@[simp] theorem setMxcsr_mem : (s.setMxcsr v).mem = s.mem := rfl
@[simp] theorem setMxcsr_denied : (s.setMxcsr v).denied = s.denied := rfl
@[simp] theorem setMxcsr_turn : (s.setMxcsr v).turn = s.turn := rfl
end SetMxcsr

section Advance
variable (s : State) (n : Nat)
@[simp] theorem advance_cfg : (s.advance n).cfg = s.cfg := rfl
@[simp] theorem advance_ctl : (s.advance n).ctl = s.ctl := rfl
@[simp] theorem advance_zmm : (s.advance n).zmm = s.zmm := rfl
@[simp] theorem advance_k : (s.advance n).k = s.k := rfl
@[simp] theorem advance_mxcsr : (s.advance n).mxcsr = s.mxcsr := rfl
@[simp] theorem advance_rflags : (s.advance n).rflags = s.rflags := rfl
@[simp] theorem advance_gpr : (s.advance n).gpr = s.gpr := rfl
@[simp] theorem advance_pc : (s.advance n).pc = s.pcAfter n := rfl
@[simp] theorem advance_cr2 : (s.advance n).cr2 = s.cr2 := rfl
@[simp] theorem advance_endPc : (s.advance n).endPc = s.endPc := rfl
@[simp] theorem advance_mem : (s.advance n).mem = s.mem := rfl
@[simp] theorem advance_denied : (s.advance n).denied = s.denied := rfl
@[simp] theorem advance_turn : (s.advance n).turn = s.turn := rfl
end Advance

section NextTurn
variable (s : State)
@[simp] theorem nextTurn_cfg : s.nextTurn.cfg = s.cfg := rfl
@[simp] theorem nextTurn_ctl : s.nextTurn.ctl = s.ctl := rfl
@[simp] theorem nextTurn_zmm : s.nextTurn.zmm = s.zmm := rfl
@[simp] theorem nextTurn_k : s.nextTurn.k = s.k := rfl
@[simp] theorem nextTurn_mxcsr : s.nextTurn.mxcsr = s.mxcsr := rfl
@[simp] theorem nextTurn_rflags : s.nextTurn.rflags = s.rflags := rfl
@[simp] theorem nextTurn_gpr : s.nextTurn.gpr = s.gpr := rfl
@[simp] theorem nextTurn_pc : s.nextTurn.pc = s.pc := rfl
@[simp] theorem nextTurn_cr2 : s.nextTurn.cr2 = s.cr2 := rfl
@[simp] theorem nextTurn_endPc : s.nextTurn.endPc = s.endPc := rfl
@[simp] theorem nextTurn_mem : s.nextTurn.mem = s.mem := rfl
@[simp] theorem nextTurn_denied : s.nextTurn.denied = s.denied := rfl
@[simp] theorem nextTurn_turn : s.nextTurn.turn = s.turn + 1 := rfl
end NextTurn

section Launch
variable (s : State)
@[simp] theorem launch_cfg : s.launch.cfg = s.cfg := rfl
@[simp] theorem launch_zmm : s.launch.zmm = s.zmm := rfl
@[simp] theorem launch_k : s.launch.k = s.k := rfl
@[simp] theorem launch_mxcsr : s.launch.mxcsr = s.mxcsr := rfl
@[simp] theorem launch_rflags : s.launch.rflags = s.rflags := rfl
@[simp] theorem launch_gpr : s.launch.gpr = s.gpr := rfl
@[simp] theorem launch_pc : s.launch.pc = s.pc := rfl
@[simp] theorem launch_cr2 : s.launch.cr2 = s.cr2 := rfl
@[simp] theorem launch_endPc : s.launch.endPc = s.endPc := rfl
@[simp] theorem launch_mem : s.launch.mem = s.mem := rfl
@[simp] theorem launch_denied : s.launch.denied = s.denied := rfl
@[simp] theorem launch_turn : s.launch.turn = s.turn := rfl
end Launch

/-! Accessors that an update leaves alone: they read `cfg`, `k`, `gpr` or `pc` only. -/

section Accessors
variable (s : State)
@[simp] theorem writeVec_top (i : BitVec 5) (v : VReg) : (s.writeVec i v).top = s.top := rfl
@[simp] theorem setMxcsr_top (v : BitVec 32) : (s.setMxcsr v).top = s.top := rfl
@[simp] theorem advance_top (n : Nat) : (s.advance n).top = s.top := rfl
@[simp] theorem nextTurn_top : s.nextTurn.top = s.top := rfl
@[simp] theorem writeVec_pcAfter (i : BitVec 5) (v : VReg) (n : Nat) :
    (s.writeVec i v).pcAfter n = s.pcAfter n := rfl
@[simp] theorem setMxcsr_pcAfter (v : BitVec 32) (n : Nat) : (s.setMxcsr v).pcAfter n = s.pcAfter n := rfl
@[simp] theorem writeVec_vecMask (i : BitVec 5) (v w : VReg) : (s.writeVec i v).vecMask w = s.vecMask w := rfl
@[simp] theorem setMxcsr_readVec (v : BitVec 32) (i : BitVec 5) : (s.setMxcsr v).readVec i = s.readVec i := rfl
@[simp] theorem advance_readVec (n : Nat) (i : BitVec 5) : (s.advance n).readVec i = s.readVec i := rfl
@[simp] theorem nextTurn_readVec (i : BitVec 5) : s.nextTurn.readVec i = s.readVec i := rfl
end Accessors

end Sys2Proof.Machine
end

