-- ==== Sys2Proof/Laws/Vectors.lean ====
section
/-! SUPPORT. Vector registers: reads after writes, the bits that exist, and the lanes of a packed result. -/

namespace Sys2Proof.Machine

theorem vecMask_getLsbD (s : State) (v : VReg) (b : Nat) :
    (s.vecMask v).getLsbD b = (v.getLsbD b && (s.cfg.hasAvx512F || decide (b < 256))) := by
  unfold State.vecMask
  split
  · simp_all
  · rename_i h
    simp only [BitVec.getLsbD_setWidth, h]
    by_cases hb : b < 256
    · simp [hb]; omega
    · simp [hb]

@[simp] theorem vecMask_vecMask (s : State) (v : VReg) : s.vecMask (s.vecMask v) = s.vecMask v := by
  apply BitVec.eq_of_getLsbD_eq
  intro b _
  simp [vecMask_getLsbD]

theorem readVec_writeVec_same (s : State) (i : BitVec 5) (v : VReg) : (s.writeVec i v).readVec i = s.vecMask v := by
  simp [State.readVec]

theorem readVec_writeVec_other (s : State) {i j : BitVec 5} (v : VReg) (h : j ≠ i) :
    (s.writeVec i v).readVec j = s.readVec j := by
  have : i.toNat ≠ j.toNat := fun e => h (BitVec.eq_of_toNat_eq e.symm)
  simp [State.readVec, Vector.getElem_set_ne _ _ this]

/-- Bit `b` of a packed result: the bit of its lane, or zero above the lanes. -/
theorem packLanes_getLsbD (f : Nat → Single) (n b : Nat) (hn : n ≤ 16) :
    (packLanes f n).getLsbD b = (decide (b < 32 * n) && (f (b / 32)).getLsbD (b % 32)) := by
  induction n with
  | zero => simp [packLanes]
  | succ n ih =>
    simp only [packLanes, BitVec.getLsbD_or, BitVec.getLsbD_shiftLeft, BitVec.getLsbD_setWidth, ih (by omega)]
    by_cases h : b < 32 * n
    · simp [h]; omega
    · by_cases h2 : b < 32 * (n + 1)
      · have e : b / 32 = n := by omega
        have e' : b - 32 * n = b % 32 := by omega
        have : b < 512 := by omega
        have h3 : b - 32 * n < 512 := by omega
        simp [h, h2, e, e', this]
        intro _; omega
      · have : 32 ≤ b - 32 * n := by omega
        simp [h, h2, BitVec.getLsbD_of_ge _ _ this]

theorem singleLane_getLsbD (v : VReg) (j b : Nat) :
    (singleLane v j).getLsbD b = (decide (b < 32) && v.getLsbD (32 * j + b)) := by
  simp [singleLane, BitVec.getLsbD_extractLsb']

/-- Lane `j` of a packed result. -/
theorem singleLane_packLanes (f : Nat → Single) {n j : Nat} (hn : n ≤ 16) (hj : j < n) :
    singleLane (packLanes f n) j = f j := by
  apply BitVec.eq_of_getLsbD_eq
  intro b hb
  have h1 : (32 * j + b) / 32 = j := by omega
  have h2 : (32 * j + b) % 32 = b := by omega
  have h3 : 32 * j + b < 32 * n := by omega
  rw [singleLane_getLsbD, packLanes_getLsbD _ _ _ hn, h1, h2]
  simp [h3, hb]

theorem VecLen.lanes_le (vl : VecLen) : vl.lanes ≤ 16 := by cases vl <;> decide

/-- A packed result fits the bits that exist when the vector length does. -/
theorem vecMask_packLanes (s : State) (f : Nat → Single) {n : Nat} (hn : n ≤ 16)
    (h : s.cfg.hasAvx512F = true ∨ n ≤ 8) : s.vecMask (packLanes f n) = packLanes f n := by
  apply BitVec.eq_of_getLsbD_eq
  intro b hb
  rw [vecMask_getLsbD, packLanes_getLsbD _ _ _ hn]
  rcases h with h | h
  · simp [h]
  · by_cases hb : b < 32 * n
    · have : b < 256 := by omega
      simp [this]
    · simp [hb]

end Sys2Proof.Machine
end

