-- ==== Sys2Proof/Laws/Convert.lean ====
section
/-! SUPPORT. The shared operation of the eight forms: what `convertForm` can answer, and every instruction as an
instance of it. -/

namespace Sys2Proof.Machine

/-- Every meaning is the shared operation at its form and operands. -/
theorem exec_eq_convertForm (i : Instr) (s : State) :
    exec i s = convertForm (Instr.form i) (Instr.operands i) s := by
  cases i <;> rfl

theorem Stop.outcome_ne_next (st : Stop) (t : State) : st.outcome ≠ .next t := by
  cases st <;> simp [Stop.outcome]

/-- A completed form: no check stopped it, its source was read, nothing signalled was unmasked, and the state is
the commit. -/
theorem convertForm_next_iff {f : Form} {o : Operands} {s t : State} :
    convertForm f o s = .next t ↔
      gate f o s = none ∧ ∃ src, readSource f o s = .ok src ∧
        (o.sae = true ∨ s.unmasked (signals f o s src) = false) ∧ t = commit f o s src := by
  unfold convertForm
  cases hg : gate f o s with
  | some st => simp [Stop.outcome_ne_next]
  | none =>
    cases hs : readSource f o s with
    | error st => simp [Stop.outcome_ne_next]
    | ok src =>
      by_cases h : o.sae = true ∨ s.unmasked (signals f o s src) = false
      · have : (!o.sae && s.unmasked (signals f o s src)) = false := by rcases h with h | h <;> simp [h]
        simp only [this, h, true_and, Bool.false_eq_true, if_false, Host.Outcome.next.injEq, Except.ok.injEq,
          exists_eq_left']
        exact eq_comm
      · push Not at h
        have h1 : o.sae = false := by simpa using h.1
        have h2 : s.unmasked (signals f o s src) = true := by simpa using h.2
        simp [h1, h2]

/-- The checks of R161 steps 1 and 2 pass. -/
theorem gate_eq_none_iff {f : Form} {o : Operands} {s : State} :
    gate f o s = none ↔ encodingRefusal o s = none ∧ invalidOpcode f o s = false ∧ s.ctl.cr0Ts = false := by
  unfold gate
  cases encodingRefusal o s with
  | some r => simp
  | none =>
    cases invalidOpcode f o s <;> cases s.ctl.cr0Ts <;> simp

/-! What a commit leaves, field by field. -/

section Commit
variable (f : Form) (o : Operands) (s : State) (src : Nat → Half)
@[simp] theorem commit_cfg : (commit f o s src).cfg = s.cfg := rfl
@[simp] theorem commit_ctl : (commit f o s src).ctl = s.ctl := rfl
@[simp] theorem commit_k : (commit f o s src).k = s.k := rfl
@[simp] theorem commit_rflags : (commit f o s src).rflags = s.rflags := rfl
@[simp] theorem commit_gpr : (commit f o s src).gpr = s.gpr := rfl
@[simp] theorem commit_cr2 : (commit f o s src).cr2 = s.cr2 := rfl
@[simp] theorem commit_endPc : (commit f o s src).endPc = s.endPc := rfl
@[simp] theorem commit_mem : (commit f o s src).mem = s.mem := rfl
@[simp] theorem commit_denied : (commit f o s src).denied = s.denied := rfl
@[simp] theorem commit_turn : (commit f o s src).turn = s.turn + 1 := rfl
@[simp] theorem commit_pc : (commit f o s src).pc = s.pcAfter o.len := rfl
@[simp] theorem commit_mxcsr :
    (commit f o s src).mxcsr = if o.sae then s.mxcsr else stickyFlags s.mxcsr (signals f o s src) := rfl
@[simp] theorem commit_zmm :
    (commit f o s src).zmm =
      s.zmm.set o.dst.toNat (s.vecMask (packLanes (resultLane o s src) f.vl.lanes)) o.dst.isLt := rfl

theorem commit_readVec_other {i : BitVec 5} (h : i ≠ o.dst) : (commit f o s src).readVec i = s.readVec i :=
  readVec_writeVec_other s _ h

theorem commit_readVec_dst :
    (commit f o s src).readVec o.dst = s.vecMask (packLanes (resultLane o s src) f.vl.lanes) :=
  readVec_writeVec_same s o.dst _
end Commit

/-! The sticky flags, bit by bit (R108). -/

theorem stickyFlags_getLsbD (m : BitVec 32) (g : Signals) (b : Nat) :
    (stickyFlags m g).getLsbD b = (m.getLsbD b || (decide (b = 0) && g.inv) || (decide (b = 1) && g.den)) := by
  obtain ⟨i, d⟩ := g
  rcases b with _ | _ | b
  · cases i <;> cases d <;> simp [stickyFlags]
  · cases i <;> cases d <;> simp [stickyFlags]
  · simp [stickyFlags, BitVec.getLsbD_setWidth]

end Sys2Proof.Machine
end

