-- ==== Sys2Proof/Laws/Checks.lean ====
section
/-! SUPPORT. The checks and reads before the commit, and what a commit leaves, in the terms of Safety.lean. -/

namespace Sys2Proof.Machine

@[simp] theorem operands_p67 (i : Instr) : (Instr.operands i).p67 = i.p67 := by cases i <;> rfl
@[simp] theorem operands_low8 (i : Instr) : (Instr.operands i).low8 = i.low8 := by cases i <;> rfl
@[simp] theorem operands_len (i : Instr) : (Instr.operands i).len = i.length := by cases i <;> rfl

/-- No refusal of R79 stops an instruction that the mode can spell. -/
theorem encodingRefusal_eq_none {i : Instr} {s : State} (h : Spellable i s) :
    encodingRefusal (Instr.operands i) s = none := by
  obtain ⟨hw, hv, hz⟩ := h
  have h1 : (s.cfg.mode == .mode32 && i.p67) = false ∧ (s.cfg.mode == .mode32 && !i.low8) = false := by
    unfold Instr.wfIn at hw
    cases hm : s.cfg.mode <;> simp_all
  have h2 : ((Instr.operands i).z && (Instr.operands i).aaa == 0#3) = false := by
    cases hz' : (Instr.operands i).z <;> simp_all
  simp [encodingRefusal, h1.1, h1.2, hv, h2]

/-- Steps 1 and 2 of R161 pass for a legal instruction of an enabled form. -/
theorem gate_eq_none {i : Instr} {s : State} (h : Legal i s) (he : Enabled (Instr.form i) s) :
    gate (Instr.form i) (Instr.operands i) s = none := by
  obtain ⟨hs, hw, hv, hb⟩ := h
  obtain ⟨h1, h2, h3⟩ := he
  refine gate_eq_none_iff.2 ⟨encodingRefusal_eq_none hs, ?_, h3⟩
  have : (!(Instr.form i).psx && (Instr.operands i).bcst) = false := by
    cases hb' : (Instr.operands i).bcst <;> simp_all
  simp [invalidOpcode, hw, hv, this, h1, h2]

/-- An instruction that an encoding check of R150 rejects takes `#UD`. -/
theorem exec_eq_ud {i : Instr} {s : State} (h : Spellable i s)
    (hu : invalidOpcode (Instr.form i) (Instr.operands i) s = true) : exec i s = .fault .ud := by
  rw [exec_eq_convertForm, convertForm, gate, encodingRefusal_eq_none h]
  simp [hu, Stop.outcome]

/-- An instruction that R79 refuses, refused by the meaning. -/
theorem exec_eq_refused {i : Instr} {s : State} {r : EncodingRefusal}
    (h : encodingRefusal (Instr.operands i) s = some r) : exec i s = .refused (.encoding r) := by
  rw [exec_eq_convertForm, convertForm, gate, h]
  rfl

/-- When a form's read answers `#AC(0)`, its other answers apart. -/
theorem alignFault_eq_some {s : State} {f : Form} {a n : Nat} {x : Fault} :
    alignFault s f a n = some x ↔
      x = .ac ∧ f.enc = .evex ∧ s.cfg.evexAc = true ∧ s.alignmentChecked = true ∧ a % n ≠ 0 ∧
        acAnswered s f a n = true := by
  unfold alignFault
  cases f.enc
  · simp
  · simp only [Option.ite_none_right_eq_some, Option.some.injEq, Bool.and_eq_true, bne_iff_ne]
    constructor
    · rintro ⟨⟨⟨⟨h1, h2⟩, h3⟩, h4⟩, rfl⟩
      exact ⟨rfl, trivial, h1, h2, h3, h4⟩
    · rintro ⟨rfl, -, h1, h2, h3, h4⟩
      exact ⟨⟨⟨⟨h1, h2⟩, h3⟩, h4⟩, rfl⟩

/-- A segment or page fault that the oracle answers is no `#AC(0)`. -/
theorem segFaultAt_ne_ac (s : State) (f : Form) (a n x : Nat) : segFaultAt s f a n x ≠ some .ac := by
  unfold segFaultAt
  split <;> simp

theorem pageFaultAt_ne_ac (s : State) (f : Form) (a n x : Nat) : pageFaultAt s f a n x ≠ some .ac := by
  unfold pageFaultAt
  (repeat' split) <;> simp

theorem segFaultAt_eq_none_iff {s : State} {f : Form} {a n x : Nat} :
    segFaultAt s f a n x = none ↔ denialAt s f a n x ≠ some .ss ∧ denialAt s f a n x ≠ some .gp := by
  unfold segFaultAt
  split <;> simp_all

theorem pageFaultAt_eq_none_iff {s : State} {f : Form} {a n x : Nat}
    (h : denialAt s f a n x ≠ some .ss ∧ denialAt s f a n x ≠ some .gp) :
    pageFaultAt s f a n x = none ↔
      (denialAt s f a n x = none ∨ denialAt s f a n x = some .ac) ∧ (Memory.read s.mem x).isSome = true := by
  unfold pageFaultAt
  rcases hd : denialAt s f a n x with _ | _ | _ | _ | _ <;> simp_all <;> split <;> simp_all

theorem alignFault_eq_none_iff {s : State} {f : Form} {a n : Nat} :
    alignFault s f a n = none ↔ NoAlignFault f s a n := by
  unfold alignFault NoAlignFault
  cases f.enc
  · simp
  · cases s.cfg.evexAc <;> cases s.alignmentChecked <;> cases acAnswered s f a n <;> simp

/-- When the oracle answers the bytes: every byte is mapped and not denied, and it does not answer `#AC(0)`. -/
theorem oracleFault_eq_none_iff {s : State} {f : Form} {a n : Nat} :
    oracleFault s f a n = none ↔
      (∀ x, a ≤ x → x < a + n →
        (denialAt s f a n x = none ∨ denialAt s f a n x = some .ac) ∧ (Memory.read s.mem x).isSome = true) ∧
      NoAlignFault f s a n := by
  rw [← alignFault_eq_none_iff]
  unfold oracleFault
  split
  · rename_i y hy
    obtain ⟨x, hx, he⟩ := List.exists_of_findSome?_eq_some hy
    have hx := List.mem_range'_1.1 hx
    simp only [reduceCtorEq, false_iff, not_and]
    intro h
    have h := (h x hx.1 hx.2).1
    rcases h with h | h <;> simp [segFaultAt, h] at he
  · rename_i hseg
    simp only [List.findSome?_eq_none_iff, List.mem_range'_1, and_imp] at hseg
    split
    · rename_i y hy
      obtain ⟨x, hx, he⟩ := List.exists_of_findSome?_eq_some hy
      have hx := List.mem_range'_1.1 hx
      simp only [reduceCtorEq, false_iff, not_and]
      intro h
      have := (pageFaultAt_eq_none_iff (segFaultAt_eq_none_iff.1 (hseg x hx.1 hx.2))).2 (h x hx.1 hx.2)
      simp [this] at he
    · rename_i hpage
      simp only [List.findSome?_eq_none_iff, List.mem_range'_1, and_imp] at hpage
      have h : ∀ x, a ≤ x → x < a + n →
          (denialAt s f a n x = none ∨ denialAt s f a n x = some .ac) ∧ (Memory.read s.mem x).isSome = true :=
        fun x h1 h2 => (pageFaultAt_eq_none_iff (segFaultAt_eq_none_iff.1 (hseg x h1 h2))).1 (hpage x h1 h2)
      exact ⟨fun h' => ⟨h, h'⟩, And.right⟩

theorem readSource_reg {f : Form} {o : Operands} {s : State} {r : BitVec 5} {sae : Bool} (h : o.src = .reg r sae) :
    readSource f o s = .ok fun j => halfLane (s.readVec r) j := by
  simp [readSource, h]

/-- When a memory source is read, and what is read. -/
theorem readSource_mem_iff {f : Form} {o : Operands} {s : State} {a : AddrForm} {b : Bool} {src : Nat → Half}
    (h : o.src = .mem a b) :
    readSource f o s = .ok src ↔
      Readable s f (operandAddr f o s a b) (f.readBytes b) ∧ NoAlignFault f s (operandAddr f o s a b) (f.readBytes b) ∧
        src = fun j => s.halfAt (if b then operandAddr f o s a b else operandAddr f o s a b + 2 * j) := by
  simp only [readSource, h, Readable, and_assoc]
  by_cases ht : s.top < operandAddr f o s a b + f.readBytes b
  · simp [ht, Nat.not_le.2 ht]
  · rw [if_neg ht, ← and_assoc (a := ∀ x, _), ← oracleFault_eq_none_iff]
    cases hf : oracleFault s f (operandAddr f o s a b) (f.readBytes b) with
    | some x => simp
    | none => simpa [Nat.not_lt.1 ht] using eq_comm

theorem readSource_mem {f : Form} {o : Operands} {s : State} {a : AddrForm} {b : Bool} (h : o.src = .mem a b)
    (hr : Readable s f (operandAddr f o s a b) (f.readBytes b))
    (ha : NoAlignFault f s (operandAddr f o s a b) (f.readBytes b)) :
    readSource f o s =
      .ok fun j => s.halfAt (if b then operandAddr f o s a b else operandAddr f o s a b + 2 * j) :=
  (readSource_mem_iff h).2 ⟨hr, ha, rfl⟩

/-- What the read of a source depends on: MXCSR, the mask registers, the width of a mask, CR2 and the end address play
no part. -/
theorem readSource_ok_congr {f : Form} {o : Operands} {s s' : State} {src : Nat → Half}
    (h : readSource f o s = .ok src) (hzmm : s'.zmm = s.zmm) (hmem : s'.mem = s.mem) (hden : s'.denied = s.denied)
    (hgpr : s'.gpr = s.gpr) (hpc : s'.pc = s.pc) (hmode : s'.cfg.mode = s.cfg.mode)
    (havx : s'.cfg.avx512 = s.cfg.avx512) (hac : s'.cfg.evexAc = s.cfg.evexAc) (hctl : s'.ctl = s.ctl)
    (hfl : s'.rflags = s.rflags) (hturn : s'.turn = s.turn) : readSource f o s' = .ok src := by
  cases hs : o.src with
  | reg r sae =>
    rw [readSource_reg hs] at h ⊢
    have : s'.readVec r = s.readVec r := by
      unfold State.readVec State.vecMask CpuConfig.hasAvx512F
      simp only [havx]
      simp only [hzmm]
    rw [← h, this]
  | mem a b =>
    rw [readSource_mem_iff hs] at h ⊢
    obtain ⟨⟨htop, hbytes⟩, hnac, hsrc⟩ := h
    have haddr : operandAddr f o s' a b = operandAddr f o s a b := by
      unfold operandAddr State.linear State.exactAddr State.addrWidth State.addrIndex State.addrReg State.readGpr
      simp only [hmode, hgpr, hpc]
    rw [haddr]
    refine ⟨⟨?_, ?_⟩, ?_, ?_⟩
    · unfold State.top at *
      rwa [hmode]
    · unfold denialAt at *
      rwa [hden, hmem, hturn]
    · unfold NoAlignFault acAnswered State.alignmentChecked denialAt at *
      rwa [hac, hctl, hfl, hden, hturn]
    · rw [hsrc]
      unfold State.halfAt State.byteAt
      rw [hmem]

theorem selects_eq (o : Operands) (s : State) : o.selects s = laneSelected s o.aaa := rfl

/-- The signals of an instruction, in the terms of claims. -/
theorem signals_eq (f : Form) (o : Operands) (s : State) (src : Nat → Half) :
    signals f o s src =
      { inv := signalsInvalid (laneSelected s o.aaa) f.vl.lanes src,
        den := f.psx && signalsDenormal (laneSelected s o.aaa) f.vl.lanes src } := by
  simp [signals, signalsInvalid, signalsDenormal, selects_eq, cvtH2s_inv, cvtH2s_den]

/-- The vector length fits the registers of a processor that has the form's CPUID flags. -/
theorem lanes_fit {f : Form} {c : CpuConfig} (h : f.cpuidOk c = true) (hv : f.enc = .vex → f.vl ≠ .v512) :
    c.hasAvx512F = true ∨ f.vl.lanes ≤ 8 := by
  obtain ⟨e, p, vl⟩ := f
  cases vl
  · exact .inr (by simp [VecLen.lanes])
  · exact .inr (by simp [VecLen.lanes])
  · left
    cases e
    · exact absurd rfl (hv rfl)
    · revert h
      unfold Form.cpuidOk CpuConfig.hasAvx512Fp16 CpuConfig.hasAvx512F
      cases p <;> cases c.avx512 <;> simp

/-- No VEX form has 512 bits. -/
theorem form_vex_ne_v512 (i : Instr) : (Instr.form i).enc = .vex → (Instr.form i).vl ≠ .v512 := by
  cases i <;> simp [Instr.form, formVex128, formVex256, formEvex128, formEvex256, formEvex512, formPsx128, formPsx256,
    formPsx512]

/-- What a commit writes, where the vector length fits. -/
theorem commit_wrote {f : Form} {o : Operands} {s : State} {src : Nat → Half}
    (hf : s.cfg.hasAvx512F = true ∨ f.vl.lanes ≤ 8) :
    Wrote s (commit f o s src) o.dst f.vl.lanes (resultLane o s src)
      (!o.sae && signalsInvalid (laneSelected s o.aaa) f.vl.lanes src)
      (!o.sae && (f.psx && signalsDenormal (laneSelected s o.aaa) f.vl.lanes src)) o.len := by
  have hv : (commit f o s src).readVec o.dst = packLanes (resultLane o s src) f.vl.lanes := by
    rw [commit_readVec_dst, vecMask_packLanes _ _ (VecLen.lanes_le _) hf]
  refine ⟨fun j hj => ?_, fun b hb => ?_, ?_, ?_, fun b hb => ?_, rfl, rfl⟩
  · rw [hv, singleLane_packLanes _ (VecLen.lanes_le _) hj]
  · rw [hv, packLanes_getLsbD _ _ _ (VecLen.lanes_le _)]
    simp [Nat.not_lt.2 hb]
  · rw [State.ie, State.ie, commit_mxcsr]
    split
    · simp_all
    · rw [stickyFlags_getLsbD, signals_eq]; simp_all
  · rw [State.de, State.de, commit_mxcsr]
    split
    · simp_all
    · rw [stickyFlags_getLsbD, signals_eq]; simp_all
  · rw [commit_mxcsr]
    split
    · rfl
    · have h0 : b ≠ 0 := by omega
      have h1 : b ≠ 1 := by omega
      rw [stickyFlags_getLsbD]
      simp [h0, h1]

/-- What a commit leaves alone. -/
theorem commit_frame (f : Form) (o : Operands) (s : State) (src : Nat → Half) :
    FrameKept s (commit f o s src) o.dst where
  vectors := fun _ hi => commit_readVec_other f o s src hi
  masks := rfl
  gprs := rfl
  rflags := rfl
  control := rfl
  config := rfl
  cr2 := rfl
  endPc := rfl
  memory := fun _ => rfl
  denied := rfl

end Sys2Proof.Machine
end

