-- ==== Sys2Proof/Laws/Memory.lean ====
section
/-! SUPPORT. Memory: a read after a write, and the canonical form. -/

namespace Sys2Proof.Machine

theorem read_write_same (m : List Host.Cell) (a : Nat) (v : Byte) : Memory.read (Memory.write m a v) a = some v := by
  induction m with
  | nil => simp [Memory.write, Memory.read]
  | cons c m ih =>
    obtain ⟨a', b⟩ := c
    simp only [Memory.write]
    split
    · simp [Memory.read]
    · split
      · simp_all [Memory.read]
      · rename_i h
        simp [Memory.read, Ne.symm h, ih]

theorem read_write_other (m : List Host.Cell) {a x : Nat} (v : Byte) (h : x ≠ a) :
    Memory.read (Memory.write m a v) x = Memory.read m x := by
  induction m with
  | nil => simp [Memory.write, Memory.read, Ne.symm h]
  | cons c m ih =>
    obtain ⟨a', b⟩ := c
    simp only [Memory.write]
    split
    · simp [Memory.read, Ne.symm h]
    · split
      · rename_i h'
        subst h'
        simp [Memory.read, Ne.symm h]
      · simp only [Memory.read]
        split
        · rfl
        · exact ih

theorem mem_of_mem_write {m : List Host.Cell} {a : Nat} {v : Byte} {c : Host.Cell} (h : c ∈ Memory.write m a v) :
    c.1 = a ∨ c ∈ m := by
  induction m with
  | nil => simp_all [Memory.write]
  | cons d m ih =>
    obtain ⟨a', b⟩ := d
    simp only [Memory.write] at h
    split at h
    · rcases List.mem_cons.1 h with rfl | h
      · exact .inl rfl
      · exact .inr h
    · split at h
      · rcases List.mem_cons.1 h with rfl | h
        · simp_all
        · exact .inr (List.mem_cons_of_mem _ h)
      · rcases List.mem_cons.1 h with rfl | h
        · exact .inr (List.mem_cons_self ..)
        · exact (ih h).imp_right (List.mem_cons_of_mem _)

/-- A write keeps the canonical form. -/
theorem write_wf {m : List Host.Cell} {a : Nat} (v : Byte) (hm : Memory.wf m) (ha : a < 2 ^ 64) :
    Memory.wf (Memory.write m a v) := by
  refine ⟨?_, fun c hc => (mem_of_mem_write hc).elim (fun h => h ▸ ha) (hm.2 c)⟩
  have hs := hm.1
  clear hm
  induction m with
  | nil => simp [Memory.write]
  | cons c m ih =>
    obtain ⟨a', b⟩ := c
    have hs' := List.pairwise_cons.1 hs
    simp only [Memory.write]
    split
    · rename_i h
      refine List.pairwise_cons.2 ⟨fun d hd => ?_, hs⟩
      rcases List.mem_cons.1 hd with rfl | hd
      · exact h
      · exact Nat.lt_trans h (hs'.1 d hd)
    · split
      · exact List.pairwise_cons.2 ⟨hs'.1, hs'.2⟩
      · refine List.pairwise_cons.2 ⟨fun d hd => ?_, ih hs'.2⟩
        rcases mem_of_mem_write hd with hd | hd
        · show a' < d.1
          omega
        · exact hs'.1 d hd

/-- Placing bytes keeps the canonical form, where they fit the space. -/
theorem writeBytes_wf {m : List Host.Cell} {a : Nat} {bs : List Byte} (hm : Memory.wf m)
    (ha : a + bs.length ≤ 2 ^ 64) : Memory.wf (Memory.writeBytes m a bs) := by
  induction bs generalizing m a with
  | nil => exact hm
  | cons b bs ih =>
    simp only [List.length_cons] at ha
    exact ih (write_wf b hm (by omega)) (by omega)

theorem read_writeBytes_below (m : List Host.Cell) {a x : Nat} (bs : List Byte) (h : x < a) :
    Memory.read (Memory.writeBytes m a bs) x = Memory.read m x := by
  induction bs generalizing m a with
  | nil => rfl
  | cons b bs ih => exact (ih (Memory.write m a b) (by omega)).trans (read_write_other m b (by omega))

/-- Byte `n` of the bytes placed is read back. -/
theorem read_writeBytes (m : List Host.Cell) (a : Nat) (bs : List Byte) {n : Nat} (h : n < bs.length) :
    Memory.read (Memory.writeBytes m a bs) (a + n) = some bs[n] := by
  induction bs generalizing m a n with
  | nil => exact absurd h (Nat.not_lt_zero n)
  | cons b bs ih =>
    cases n with
    | zero => exact (read_writeBytes_below _ bs (by omega)).trans (read_write_same m a b)
    | succ n =>
      have := ih (Memory.write m a b) (a + 1) (n := n) (by simpa using h)
      simpa [Memory.writeBytes, Nat.add_assoc, Nat.add_comm 1] using this

end Sys2Proof.Machine
end

