-- ==== Sys2Proof/Laws/PerInstr.lean ====
section
/-! SUPPORT. Statements for every instruction, constructor by constructor: the encoder writes as many bytes as the
instruction is long, and that is 5 to 12 (30_encoding.md R83). -/

namespace Sys2Proof

theorem d32Bytes_length (v : BitVec 32) : (d32Bytes v).length = 4 := rfl

theorem Disp.bytes_length (d : Disp) : d.bytes.length = d.size := by cases d <;> rfl

theorem Disp.size_le (d : Disp) : d.size ≤ 4 := by cases d <;> simp [Disp.size]

theorem AddrForm.tail_length (a : AddrForm) : a.fields.tail.length = a.size := by
  cases a <;> simp [AddrForm.fields, AddrForm.size, Disp.bytes_length, d32Bytes_length, Nat.add_comm]

theorem AddrForm.size_le (a : AddrForm) : a.size ≤ 5 := by
  cases a with
  | base _ d => exact Nat.le_succ_of_le d.size_le
  | disp32 _ => exact Nat.le_succ 4
  | sib _ _ _ d => have := d.size_le; simp only [AddrForm.size]; omega
  | sibNoBase _ _ _ => exact Nat.le_refl 5

theorem VexSrc.tail_length (x : VexSrc) : x.fields.tail.length = x.size := by
  cases x with
  | reg _ => rfl
  | mem a => exact a.tail_length

theorem VexSrc.size_le (x : VexSrc) : x.size ≤ 5 := by
  cases x with
  | reg _ => exact Nat.zero_le 5
  | mem a => exact a.size_le

theorem EvexSrc.tail_length (x : EvexSrc) : x.fields.tail.length = x.size := by
  cases x with
  | reg _ => rfl
  | mem a | memB a => exact a.tail_length

theorem EvexSrc.size_le (x : EvexSrc) : x.size ≤ 5 := by
  cases x with
  | reg _ => exact Nat.zero_le 5
  | mem a | memB a => exact a.size_le

theorem EvexSrc512.tail_length (x : EvexSrc512) : x.fields.tail.length = x.size := by
  cases x with
  | reg _ | regSae _ => rfl
  | mem a | memB a => exact a.tail_length

theorem EvexSrc512.size_le (x : EvexSrc512) : x.size ≤ 5 := by
  cases x with
  | reg _ | regSae _ => exact Nat.zero_le 5
  | mem a | memB a => exact a.size_le

theorem encodeVex_length (l : Bool) (x : VexOps) : (encodeVex l x).length = x.length := by
  cases hp : x.p67 <;> simp [encodeVex, VexOps.length, hp, VexSrc.tail_length] <;> omega

theorem encodeEvex_length {σ : Type} (map : BitVec 3) (len : BitVec 2) (b : Bool) (f : RmFields) (x : EvexOps σ) :
    (encodeEvex map len b f x).length = evexLength x.p67 f.tail.length := by
  cases hp : x.p67 <;> simp [encodeEvex, evexLength, hp] <;> omega

theorem VexOps.length_bounds (x : VexOps) : 5 ≤ x.length ∧ x.length ≤ 12 := by
  have := x.src.size_le
  have := Bool.toNat_le x.p67
  simp only [VexOps.length]
  omega

theorem evexLength_bounds (p : Bool) {n : Nat} (h : n ≤ 5) : 5 ≤ evexLength p n ∧ evexLength p n ≤ 12 := by
  have := Bool.toNat_le p
  simp only [evexLength]
  omega

namespace Laws.EncodeLength

/-- The encoding is as long as R83 says, and 5 to 12 bytes. -/
def Statement (i : Instr) : Prop := (encode i).length = i.length ∧ 5 ≤ i.length ∧ i.length ≤ 12

theorem vcvtph2psVex128 (x : VexOps) : Statement (.vcvtph2psVex128 x) := ⟨encodeVex_length _ x, x.length_bounds⟩

theorem vcvtph2psVex256 (x : VexOps) : Statement (.vcvtph2psVex256 x) := ⟨encodeVex_length _ x, x.length_bounds⟩

theorem vcvtph2psEvex128 (x : EvexOps EvexSrc) : Statement (.vcvtph2psEvex128 x) :=
  ⟨(encodeEvex_length _ _ _ _ x).trans (by rw [x.src.tail_length]; rfl), evexLength_bounds _ x.src.size_le⟩

theorem vcvtph2psEvex256 (x : EvexOps EvexSrc) : Statement (.vcvtph2psEvex256 x) :=
  ⟨(encodeEvex_length _ _ _ _ x).trans (by rw [x.src.tail_length]; rfl), evexLength_bounds _ x.src.size_le⟩

theorem vcvtph2psEvex512 (x : EvexOps EvexSrc512) : Statement (.vcvtph2psEvex512 x) :=
  ⟨(encodeEvex_length _ _ _ _ x).trans (by rw [x.src.tail_length]; rfl), evexLength_bounds _ x.src.size_le⟩

theorem vcvtph2psxEvex128 (x : EvexOps EvexSrc) : Statement (.vcvtph2psxEvex128 x) :=
  ⟨(encodeEvex_length _ _ _ _ x).trans (by rw [x.src.tail_length]; rfl), evexLength_bounds _ x.src.size_le⟩

theorem vcvtph2psxEvex256 (x : EvexOps EvexSrc) : Statement (.vcvtph2psxEvex256 x) :=
  ⟨(encodeEvex_length _ _ _ _ x).trans (by rw [x.src.tail_length]; rfl), evexLength_bounds _ x.src.size_le⟩

theorem vcvtph2psxEvex512 (x : EvexOps EvexSrc512) : Statement (.vcvtph2psxEvex512 x) :=
  ⟨(encodeEvex_length _ _ _ _ x).trans (by rw [x.src.tail_length]; rfl), evexLength_bounds _ x.src.size_le⟩

end Laws.EncodeLength

end Sys2Proof
end

