-- ==== Sys2Proof/Tests/Slice0.lean ====
section
/-! SUPPORT. Tests. Words are written out bit by bit from 30_encoding.md R63, R65, R68 and R69; expected results are
those of 95_test_vectors.md, whose number each test names. The witnesses meet the hypotheses of the obligations. -/

namespace Sys2Proof.Tests

-- One test at a time: elaborated side by side they ask for too many threads.
set_option Elab.async false

open Sys2Proof.Machine

/-! ### Well-formedness: an ill-formed term for each check -/

def evexR (dst r : BitVec 5) : EvexOps EvexSrc :=
  { p67 := false, dst := dst, w := false, vvvv := 15#4, z := false, vp := true, aaa := 0#3, src := .reg r }
def evexM (a : AddrForm) : EvexOps EvexSrc := { evexR 0#5 0#5 with src := .mem a }
def evexB (a : AddrForm) : EvexOps EvexSrc := { evexR 0#5 0#5 with src := .memB a }
def evexSae (dst r : BitVec 5) : EvexOps EvexSrc512 :=
  { p67 := false, dst := dst, w := false, vvvv := 15#4, z := false, vp := true, aaa := 0#3, src := .regSae r }
def vexR (dst r : BitVec 4) : VexOps := { p67 := false, dst := dst, w := false, vvvv := 15#4, src := .reg r }
def vexM (a : AddrForm) : VexOps := { vexR 0#4 0#4 with src := .mem a }
/-- `[rax]`. -/
def atRax : AddrForm := .base 0#4 .absent

theorem test_wf_accepts : Instr.wf (.vcvtph2psVex128 (vexM atRax)) = true := by decide
/-- `rm = 100b` announces a SIB byte (R69): it names no base register, with or without the prefix bit. -/
theorem test_wf_rm_100 : Instr.wf (.vcvtph2psVex128 (vexM (.base 4#4 .absent))) = false ∧
    Instr.wf (.vcvtph2psEvex128 (evexM (.base 12#4 (.d8 0#8)))) = false := by decide
/-- `rm = 101b` with `mod = 00b` names no base register (R70). -/
theorem test_wf_rm_101 : Instr.wf (.vcvtph2psEvex256 (evexM (.base 5#4 .absent))) = false ∧
    Instr.wf (.vcvtph2psxEvex128 (evexB (.base 13#4 .absent))) = false := by decide
/-- SIB `base = 101b` with `mod = 00b` names no base register (R70). -/
theorem test_wf_sib_base_101 : Instr.wf (.vcvtph2psxEvex256 (evexB (.sib 0#2 4#4 5#4 .absent))) = false ∧
    Instr.wf (.vcvtph2psxEvex512 (widenOps (evexM (.sib 0#2 4#4 13#4 .absent)))) = false := by decide
/-- Mode32 has no 67H (R62). -/
theorem test_wf_mode32_p67 : Instr.wfIn .mode32 (.vcvtph2psVex128 { vexR 0#4 0#4 with p67 := true }) = false ∧
    Instr.wfIn .mode64 (.vcvtph2psVex128 { vexR 0#4 0#4 with p67 := true }) = true := by decide
/-- Mode32 has the registers 0 to 7 only: destination, source, base and index (R66). -/
theorem test_wf_mode32_registers : Instr.wfIn .mode32 (.vcvtph2psVex128 (vexR 8#4 0#4)) = false ∧
    Instr.wfIn .mode32 (.vcvtph2psEvex512 (evexSae 0#5 8#5)) = false ∧
    Instr.wfIn .mode32 (.vcvtph2psVex256 (vexM (.base 8#4 .absent))) = false ∧
    Instr.wfIn .mode32 (.vcvtph2psxEvex128 (evexM (.sib 0#2 8#4 0#4 .absent))) = false ∧
    Instr.wfIn .mode32 (.vcvtph2psVex128 (vexR 7#4 7#4)) = true := by decide

/-! ### Decoding: a word of each constructor, from the spec's encoding of it -/

/-- V3's `vcvtph2ps xmm1, qword ptr [rax]`. -/
theorem test_decode_vex128 : decode .mode64 .require10
    [0b11000100#8, 0b11100010#8, 0b01111001#8, 0b00010011#8, 0b00001000#8] =
    .instr (.vcvtph2psVex128 { vexM atRax with dst := 1#4 }) [] := by decide +kernel
/-- P5's `vcvtph2ps ymm7, xmmword ptr [esi+edi*4+100H]`. -/
theorem test_decode_vex256 : decode .mode32 .require10
    [0b11000100#8, 0b11100010#8, 0b01111101#8, 0b00010011#8, 0b10111100#8, 0b10111110#8, 0#8, 1#8, 0#8, 0#8] =
    .instr (.vcvtph2psVex256 { vexM (.sib 2#2 7#4 6#4 (.d32 256#32)) with dst := 7#4 }) [] := by decide +kernel
/-- E15's `vcvtph2ps xmm0 k2, xmm1`. -/
theorem test_decode_evex128 : decode .mode64 .require10
    [0b01100010#8, 0b11110010#8, 0b01111101#8, 0b00001010#8, 0b00010011#8, 0b11000001#8] =
    .instr (.vcvtph2psEvex128 { evexR 0#5 1#5 with aaa := 2#3 }) [] := by decide +kernel
/-- E2's `vcvtph2ps ymm0 k1 z, xmm1`. -/
theorem test_decode_evex256 : decode .mode64 .require10
    [0b01100010#8, 0b11110010#8, 0b01111101#8, 0b10101001#8, 0b00010011#8, 0b11000001#8] =
    .instr (.vcvtph2psEvex256 { evexR 0#5 1#5 with z := true, aaa := 1#3 }) [] := by decide +kernel
/-- E4's `vcvtph2ps zmm0, ymm1, sae`. -/
theorem test_decode_evex512 : decode .mode64 .require10
    [0b01100010#8, 0b11110010#8, 0b01111101#8, 0b01011000#8, 0b00010011#8, 0b11000001#8] =
    .instr (.vcvtph2psEvex512 (evexSae 0#5 1#5)) [] := by decide +kernel
/-- X12's `vcvtph2psx xmm0, qword ptr [rax]`. -/
theorem test_decode_psx128 : decode .mode64 .require10
    [0b01100010#8, 0b11110110#8, 0b01111101#8, 0b00001000#8, 0b00010011#8, 0b00000000#8] =
    .instr (.vcvtph2psxEvex128 (evexM atRax)) [] := by decide +kernel
/-- P3's `vcvtph2psx ymm3 k1, xmm2`. -/
theorem test_decode_psx256 : decode .mode64 .require10
    [0b01100010#8, 0b11110110#8, 0b01111101#8, 0b00101001#8, 0b00010011#8, 0b11011010#8] =
    .instr (.vcvtph2psxEvex256 { evexR 3#5 2#5 with aaa := 1#3 }) [] := by decide +kernel
/-- X5's `vcvtph2psx zmm6 k7 z, word ptr [rdx-100H] 1to16`. -/
theorem test_decode_psx512 : decode .mode64 .require10
    [0b01100010#8, 0b11110110#8, 0b01111101#8, 0b11011111#8, 0b00010011#8, 0b01110010#8, 0b10000000#8] =
    .instr (.vcvtph2psxEvex512 (widenOps { evexB (.base 2#4 (.d8 128#8)) with dst := 6#5, z := true, aaa := 7#3 })) [] := by
  decide +kernel
/-- E13: `R'`, `R`, `X` and `B` all stored 0. -/
theorem test_decode_inverted_bits : decode .mode64 .require10
    [0b01100010#8, 0b00000010#8, 0b01111101#8, 0b01001000#8, 0b00010011#8, 0b11111110#8] =
    .instr (.vcvtph2psEvex512 (widenOps (evexR 31#5 30#5))) [] := by decide +kernel
/-- V12, V14, V17, E8, E9, E10b, E10c, E19c: bytes that are no instruction of the model. -/
theorem test_decode_refusals :
    decode .mode64 .require10 [0xC5#8, 0xF9#8, 0x13#8, 0xC1#8] = .refused .notInScope ∧
    decode .mode64 .require10 [0x66#8, 0xC4#8, 0xE2#8, 0x79#8, 0x13#8, 0xC1#8] = .ud ∧
    decode .mode32 .require10 [0xC4#8, 0x62#8, 0x79#8, 0x13#8, 0xC1#8] = .refused .notInScope ∧
    decode .mode64 .require10 [0x62#8, 0xF2#8, 0x7D#8, 0x68#8, 0x13#8, 0xC1#8] = .refused .evexLen ∧
    decode .mode64 .require10 [0x62#8, 0xF2#8, 0x7D#8, 0x18#8, 0x13#8, 0xC1#8] = .refused .saeLen ∧
    decode .mode64 .require10 [0x62#8, 0xFA#8, 0x7D#8, 0x48#8, 0x13#8, 0xC1#8] = .refused .evexReserved ∧
    decode .mode64 .require10 [0x62#8, 0xF2#8, 0x79#8, 0x48#8, 0x13#8, 0xC1#8] = .refused .evexReserved ∧
    decode .mode32 .require10 [0x62#8, 0xE2#8, 0x7D#8, 0x48#8, 0x13#8, 0xC1#8] = .refused .mode32Regs := by
  decide +kernel

/-! ### The conversion: rows of the table of 95_test_vectors.md -/

theorem test_convert_finite :
    cvtH2s resetConfig 0x0000#16 = ⟨0x00000000#32, false, false⟩ ∧ cvtH2s resetConfig 0x8000#16 = ⟨0x80000000#32, false, false⟩ ∧
    cvtH2s resetConfig 0x0001#16 = ⟨0x33800000#32, false, true⟩ ∧ cvtH2s resetConfig 0x8001#16 = ⟨0xB3800000#32, false, true⟩ ∧
    cvtH2s resetConfig 0x0200#16 = ⟨0x38000000#32, false, true⟩ ∧ cvtH2s resetConfig 0x03FF#16 = ⟨0x387FC000#32, false, true⟩ ∧
    cvtH2s resetConfig 0x0400#16 = ⟨0x38800000#32, false, false⟩ ∧ cvtH2s resetConfig 0x2E66#16 = ⟨0x3DCCC000#32, false, false⟩ ∧
    cvtH2s resetConfig 0x3C01#16 = ⟨0x3F802000#32, false, false⟩ ∧ cvtH2s resetConfig 0xFBFF#16 = ⟨0xC77FE000#32, false, false⟩ := by
  decide +kernel
theorem test_convert_special :
    cvtH2s resetConfig 0x7C00#16 = ⟨0x7F800000#32, false, false⟩ ∧ cvtH2s resetConfig 0xFC00#16 = ⟨0xFF800000#32, false, false⟩ ∧
    cvtH2s resetConfig 0x7E00#16 = ⟨0x7FC00000#32, false, false⟩ ∧ cvtH2s resetConfig 0xFFFF#16 = ⟨0xFFFFE000#32, false, false⟩ ∧
    cvtH2s resetConfig 0x7C01#16 = ⟨0x7FC02000#32, true, false⟩ ∧ cvtH2s resetConfig 0xFD55#16 = ⟨0xFFEAA000#32, true, false⟩ := by
  decide +kernel

/-- A configuration may give a NaN another quiet NaN, and gives it the signals of R104 all the same (R112, P4, P5); it
has no say on other inputs (P1, P3). -/
theorem test_convert_configured :
    let c : CpuConfig := { resetConfig with nanResults :=
      [(0x7C01#16, ⟨1#1, 0#22⟩), (0x7C00#16, ⟨1#1, 0#22⟩), (0x0001#16, ⟨1#1, 0#22⟩)] }
    cvtH2s c 0x7C01#16 = ⟨0xFFC00000#32, true, false⟩ ∧ cvtH2s c 0xFC01#16 = ⟨0xFFC02000#32, true, false⟩ ∧
    cvtH2s c 0x7C00#16 = ⟨0x7F800000#32, false, false⟩ ∧ cvtH2s c 0x0001#16 = ⟨0x33800000#32, false, true⟩ := by
  decide +kernel

/-! ### Steps -/

/-- Bytes of a word, low byte first. -/
def bytesOf (n w : Nat) : List Byte := (List.range n).map fun i => BitVec.ofNat 8 (w / 256 ^ i)

/-- The launch state of 95_test_vectors.md with an instruction at 1000H; `w` is its bytes, low byte first. -/
def launchedWith (n w : Nat) : State :=
  { State.reset.launch with pc := 0x1000#64, mem := Memory.writeBytes [] 0x1000 (bytesOf n w) }

def withVec (i : BitVec 5) (v : VReg) (s : State) : State := s.writeVec i v
def withMask (i : Fin 8) (v : Quad) (s : State) : State := { s with k := s.k.set i v }
def withGpr (i : Fin 16) (v : Quad) (s : State) : State := { s with gpr := s.gpr.set i v }
def withData (a n w : Nat) (s : State) : State := { s with mem := Memory.writeBytes s.mem a (bytesOf n w) }
def allOnes : VReg := -1#512

/-- The step completes and leaves this in register `i`, MXCSR and `pc`. -/
def leaves (s : State) (i : BitVec 5) (v : VReg) (mxcsr : BitVec 32) (pc : Quad) : Bool :=
  match step s with
  | .next t => t.readVec i == v && t.mxcsr == mxcsr && t.pc == pc
  | .fault _ | .refused _ => false

/-- The step ends in this exception. -/
def raises (s : State) (e : Exception) : Bool :=
  match step s with
  | .fault f => f.exception == e
  | .next _ | .refused _ => false

/-- V1. -/
theorem test_V1 : leaves (launchedWith 5 0xC11379E2C4 |> withVec 1#5 0xDDDDCCCCBBBBAAAA00017BFFC0003C00#512
    |> withVec 0#5 allOnes) 0#5 0x33800000477FE000C00000003F800000#512 0x1F80#32 0x1005#64 = true := by decide +kernel
/-- V8, where Invalid is unmasked. -/
theorem test_V8_unmasked : raises { launchedWith 5 0xC11379E2C4 |> withVec 1#5 0x7D003C00#512 with mxcsr := 0x1F00#32 }
    .xm = true := by decide +kernel
/-- V1's bytes where the configuration turns the NaN 7E00H into the default NaN with its sign set (R112). -/
theorem test_V1_configured : leaves { launchedWith 5 0xC11379E2C4 |> withVec 1#5 0x7E003C00#512 with
    cfg := { resetConfig with nanResults := [(0x7E00#16, ⟨1#1, 0#22⟩)] } } 0#5
    0xFFC000003F800000#512 0x1F80#32 0x1005#64 = true := by decide +kernel
/-- V6: a 1-byte displacement of a VEX form is not scaled. -/
theorem test_V6 : leaves (launchedWith 6 0x1048137DE2C4 |> withGpr 0 0x2000#64
    |> withData 0x2010 16 0x84000400FBFF7BFF35552E6642485640) 1#5
    0xB880000038800000C77FE000477FE0003EAAA0003DCCC0004049000042C80000#512 0x1F80#32 0x1006#64 = true := by
  decide +kernel
/-- V5: registers 14 and 15. -/
theorem test_V5 : leaves (launchedWith 5 0xFE137D42C4 |> withVec 14#5 0x35553555355535553555355535553555#512) 15#5
    0x3EAAA0003EAAA0003EAAA0003EAAA0003EAAA0003EAAA0003EAAA0003EAAA000#512 0x1F80#32 0x1005#64 = true := by
  decide +kernel
/-- E1: merging keeps lanes 1 and 3, and the bits above the vector length are zeroed. -/
theorem test_E1 : leaves (launchedWith 6 0xC113097DF262 |> withVec 1#5 0x4400420040003C00#512
    |> withVec 0#5 (allOnes / 15#512) |> withMask 1 5#64) 0#5 0x1111111140400000111111113F800000#512 0x1F80#32 0x1006#64
    = true := by decide +kernel
/-- E15: a signaling NaN in an unselected lane signals nothing. -/
theorem test_E15 : leaves { launchedWith 6 0xC1130A7DF262 |> withVec 1#5 0x3C003C007D003C00#512
    |> withVec 0#5 0x22222222222222222222222222222222#512 |> withMask 2 13#64 with mxcsr := 0x1F00#32 } 0#5
    0x3F8000003F800000222222223F800000#512 0x1F00#32 0x1006#64 = true := by decide +kernel
/-- E2: zeroing. -/
theorem test_E2 : leaves (launchedWith 6 0xC113A97DF262 |> withVec 1#5 0x48004700460045004400420040003C00#512
    |> withVec 0#5 allOnes |> withMask 1 0xF0#64) 0#5
    0x4100000040E0000040C0000040A0000000000000000000000000000000000000#512 0x1F80#32 0x1006#64 = true := by
  decide +kernel
/-- E11: the displacement 2 is scaled by 16. -/
theorem test_E11 : leaves (launchedWith 7 0x024B13287DF262 |> withGpr 3 0x2000#64
    |> withData 0x2020 16 0x50004F004E004D004C004B004A004900) 1#5
    0x4200000041E0000041C0000041A0000041800000416000004140000041200000#512 0x1F80#32 0x1007#64 = true := by
  decide +kernel
/-- E4: with sae an unmasked Invalid neither faults nor sets a flag. -/
theorem test_E4 : leaves { launchedWith 6 0xC113587DF262 |> withVec 1#5 0x7D00#512 with mxcsr := 0x1F00#32 } 0#5
    0x7FE00000#512 0x1F00#32 0x1006#64 = true := by decide +kernel
/-- E12: the displacement -1 is scaled by 32. -/
theorem test_E12 : leaves (launchedWith 7 0xFF4813487DF262 |> withGpr 0 0x2020#64
    |> withData 0x2000 32 0x3C003C003C003C003C003C003C003C003C003C003C003C003C003C003C003C00) 1#5
    (0x3F800000#512 * ((allOnes / 0xFFFFFFFF#512))) 0x1F80#32 0x1007#64 = true := by decide +kernel
/-- X1: the lanes of V1, and DE is set. -/
theorem test_X1 : leaves (launchedWith 6 0xC113087DF662 |> withVec 1#5 0x00017BFFC0003C00#512) 0#5
    0x33800000477FE000C00000003F800000#512 0x1F82#32 0x1006#64 = true := by decide +kernel
/-- X13: the whole operand is read, whatever the mask; byte 2006H is not mapped. -/
theorem test_X13 : raises (launchedWith 6 0x0013097DF662 |> withGpr 0 0x2000#64 |> withData 0x2000 6 0
    |> withMask 1 7#64) .pf = true := by decide +kernel
/-- X2: a broadcast, eight lanes. -/
theorem test_X2 : leaves (launchedWith 6 0x0013387DF662 |> withGpr 0 0x2000#64 |> withData 0x2000 2 0xC000
    |> withVec 0#5 allOnes) 0#5 0xC0000000C0000000C0000000C0000000C0000000C0000000C0000000C0000000#512 0x1F80#32
    0x1006#64 = true := by decide +kernel
/-- X10b: no AVX512VL. -/
theorem test_X10b : raises { launchedWith 6 0xC113287DF662 with
    cfg := { resetConfig with avx512 := some { vl := false, fp16 := true } } } .ud = true := by decide +kernel
/-- X5: zeroing, the displacement -128 scaled by 2, and one denormal broadcast to lanes 0 and 15. -/
theorem test_X5 : leaves (launchedWith 7 0x807213DF7DF662 |> withGpr 2 0x2100#64 |> withData 0x2000 2 0x03FF
    |> withVec 6#5 allOnes |> withMask 7 0x8001#64) 6#5 (0x387FC000#512 <<< 480 ||| 0x387FC000#512) 0x1F82#32 0x1007#64
    = true := by decide +kernel
/-- X4b: without sae, an unmasked Denormal faults. -/
theorem test_X4_unmasked : raises { launchedWith 6 0xC113487DF662 |> withVec 1#5 1#512 with mxcsr := 0x1E80#32 } .xm
    = true := by decide +kernel

/-! ### Witnesses: a state and operands that meet all hypotheses of each obligation -/

/-- Launched; a signaling NaN, a denormal and more in registers 1 and 14, 32 bytes at 2000H, `rax` and `rbx` there,
no lane selected by `k1`, lanes 0 to 3 by `k2`. -/
def ready : State :=
  launchedWith 5 0xC11379E2C4 |> withVec 1#5 0x7E00C0007BFF7C013C000001#512 |> withVec 14#5 0x7C010001#512
    |> withGpr 0 0x2000#64 |> withGpr 3 0x2000#64 |> withMask 2 15#64
    |> withData 0x2000 32 0x3C004000420044007C01000103FF80003C004000420044007C01000103FF8000

/-- `ready` in Mode32. -/
def ready32 : State := { ready with cfg := { ready.cfg with mode := .mode32 } }

def completes (i : Instr) (s : State) : Bool :=
  match exec i s with
  | .next _ => true
  | .fault _ | .refused _ => false

/-- The instruction ends in this exception. -/
def execRaises (i : Instr) (s : State) (e : Exception) : Bool :=
  match exec i s with
  | .fault f => f.exception == e
  | .next _ | .refused _ => false

theorem next_of_completes {i : Instr} {s : State} (h : completes i s = true) : ∃ t, exec i s = .next t := by
  unfold completes at h
  split at h
  · exact ⟨_, ‹_›⟩
  · exact absurd h Bool.false_ne_true
  · exact absurd h Bool.false_ne_true

/-- Every form is enabled in `ready`. -/
theorem ready_enabled (i : Instr) : Enabled (Instr.form i) ready := by
  cases i <;> exact ⟨rfl, rfl, rfl⟩

theorem ready_readable (f : Form) {n : Nat} (h : n ≤ 32) : Readable ready f 0x2000 n := by
  have h1 : 0x2000 + 32 ≤ ready.top := by decide +kernel
  have h2 : ∀ x, 0x2000 ≤ x → x < 0x2000 + 32 → (Memory.read ready.mem x).isSome = true := by decide +kernel
  exact ⟨by omega, fun x ha hb => ⟨.inl rfl, h2 x ha (by omega)⟩⟩

theorem ready_addr (p67 : Bool) (len n : Nat) : ready.linear p67 len n atRax = 0x2000 := by
  cases p67 <;> rfl

/-- Witness for each mnemonic, encoding and length, register and memory source, well-formed in both modes. -/
theorem witness_DecodeOfEncodeIsTheInstruction :
    (Instr.vcvtph2psVex128 (vexR 15#4 8#4)).wfIn .mode64 = true ∧
    (Instr.vcvtph2psVex256 (vexM (.sib 3#2 4#4 7#4 (.d32 0x80000000#32)))).wfIn .mode32 = true ∧
    (Instr.vcvtph2psEvex512 (evexSae 31#5 31#5)).wfIn .mode64 = true ∧
    (Instr.vcvtph2psxEvex256 (evexB (.sibNoBase 0#2 15#4 0#32))).wfIn .mode64 = true := by decide

/-- The twelve bytes of the longest instruction (R83): 67H, EVEX, SIB, disp32. -/
def longest : List Byte :=
  [0x67#8, 0x62#8, 0xF2#8, 0x7D#8, 0x08#8, 0x13#8, 0x84#8, 0x58#8, 1#8, 2#8, 3#8, 4#8]
def longestInstr : Instr :=
  .vcvtph2psEvex128 { evexM (.sib 1#2 3#4 0#4 (.d32 0x04030201#32)) with p67 := true }

theorem witness_DecodeConsumesTheLength : decode .mode64 .require10 longest = .instr longestInstr [] := by
  decide +kernel
theorem witness_DecodedInstructionsAreWellFormed :
    decode .mode64 .ignore longest = .instr longestInstr [] ∧ (Instr.operands longestInstr).vp = true ∧
    ((Instr.operands longestInstr).z = true → (Instr.operands longestInstr).aaa ≠ 0#3) := by decide +kernel
theorem witness_DecodeReadsNoLaterByte :
    decode .mode32 .ignore [0xC4#8, 0xE2#8, 0x79#8, 0x13#8, 0xC1#8] = .instr (.vcvtph2psVex128 (vexR 0#4 1#4)) [] := by
  decide +kernel
theorem witness_DecodedBytesMatchTheirRow :
    decode .mode64 .require10 longest = .instr longestInstr [] ∧ longestInstr.p67 = true := by decide +kernel

/-- Each illegal prefix, before each of the two prefixes, in each mode it is illegal in. -/
theorem witness_IllegalPrefixRaisesInvalidOpcode :
    (launchedWith 6 0xC11379E2C466).fetch = [0x66#8, 0xC4#8, 0xE2#8, 0x79#8, 0x13#8, 0xC1#8] ∧
    (launchedWith 6 0xC11379E2C44F).fetch = [0x4F#8, 0xC4#8, 0xE2#8, 0x79#8, 0x13#8, 0xC1#8] ∧
    (0x4F#8).extractLsb' 4 4 = 4#4 ∧ (launchedWith 6 0xC11379E2C44F).cfg.mode = .mode64 ∧
    ({ launchedWith 4 0x7DF262F0 with cfg := { resetConfig with mode := .mode32 } } : State).fetch =
      [0xF0#8, 0x62#8, 0xF2#8, 0x7D#8] ∧ (0xF2#8).extractLsb' 6 2 = 3#2 := by decide +kernel
theorem witness_RefusedLegacyPrefixes :
    0x26#8 ∈ [0x26#8, 0x2E#8, 0x36#8, 0x3E#8, 0x64#8, 0x65#8] ∧
    0x65#8 ∈ [0x26#8, 0x2E#8, 0x36#8, 0x3E#8, 0x64#8, 0x65#8] := by decide
/-- E10b, E10c, then E9 and `L'L = 11b` with `b` and a register, then E8 and memory with `b`;
the first byte serves Mode32 and the `ignore` clause too. -/
theorem witness_ReservedEvexFieldsAreRefused :
    (0xFA#8).getLsbD 3 = true ∧ (0x79#8).getLsbD 2 = false ∧
    ((0xF2#8).getLsbD 3 = false ∧ (0x7D#8).getLsbD 2 = true ∧ (0xF2#8).extractLsb' 0 3 = 2#3 ∧
      (0xF6#8).extractLsb' 0 3 = 6#3 ∧ (0x7D#8).extractLsb' 0 2 = 1#2) ∧
    ((0xC1#8).extractLsb' 6 2 = 3#2 ∧ (0x18#8).getLsbD 4 = true ∧ (0x18#8).extractLsb' 5 2 ≠ 2#2 ∧
      (0x78#8).getLsbD 4 = true ∧ (0x78#8).extractLsb' 5 2 ≠ 2#2) ∧
    ((0x68#8).getLsbD 4 = false ∧ (0x68#8).extractLsb' 5 2 = 3#2) ∧
    ((0x00#8).extractLsb' 6 2 ≠ 3#2 ∧ (0x78#8).extractLsb' 5 2 = 3#2) ∧
    ((0xF2#8).extractLsb' 6 2 = 3#2 ∧ (0xF2#8).getLsbD 5 = true ∧ (0xF2#8).getLsbD 4 = true) := by decide
theorem witness_Mode32EncodingsAreRestricted :
    (0x3F#8).extractLsb' 6 2 ≠ 3#2 ∧ (0xBF#8).extractLsb' 6 2 ≠ 3#2 ∧
    ((0xC2#8).extractLsb' 6 2 = 3#2 ∧ (0xC2#8).getLsbD 5 = false ∧ (0xC2#8).extractLsb' 0 5 = 2#5 ∧
      (0x79#8).extractLsb' 0 2 = 1#2) := by decide

theorem witness_StepRunsTheDecodedInstruction :
    decode ready.cfg.mode ready.cfg.saeLenPolicy ready.fetch = .instr (.vcvtph2psVex128 (vexR 0#4 1#4)) [] := by
  decide +kernel
theorem witness_StepRunsTheEncodedInstruction :
    (Instr.vcvtph2psVex128 (vexR 0#4 1#4)).wfIn ready.cfg.mode = true ∧
    ready.pc.toNat + (encode (.vcvtph2psVex128 (vexR 0#4 1#4))).length ≤ ready.top ∧
    ∀ n (h : n < (encode (.vcvtph2psVex128 (vexR 0#4 1#4))).length),
      Memory.read ready.mem (ready.pc.toNat + n) = some ((encode (.vcvtph2psVex128 (vexR 0#4 1#4)))[n]'h) := by
  decide +kernel
/-- Four of five bytes below the top. -/
def atTop : State :=
  { ready with pc := 0xFFFFFFFFFFFFFFFC#64, mem := Memory.writeBytes [] 0xFFFFFFFFFFFFFFFC (bytesOf 4 0x1379E2C4) }
theorem witness_FetchPastTheTopIsRefused :
    (Instr.vcvtph2psVex128 (vexR 0#4 1#4)).wfIn atTop.cfg.mode = true ∧ atTop.pc.toNat < atTop.top ∧
    atTop.top < atTop.pc.toNat + (encode (.vcvtph2psVex128 (vexR 0#4 1#4))).length ∧
    ∀ n (h : n < (encode (.vcvtph2psVex128 (vexR 0#4 1#4))).length), atTop.pc.toNat + n < atTop.top →
      Memory.read atTop.mem (atTop.pc.toNat + n) = some ((encode (.vcvtph2psVex128 (vexR 0#4 1#4)))[n]'h) := by
  decide +kernel

theorem completes_ready : completes (.vcvtph2psVex128 (vexR 0#4 1#4)) ready = true ∧
    completes (.vcvtph2psxEvex512 (widenOps (evexR 31#5 1#5))) ready = true ∧
    completes (.vcvtph2psxEvex128 (evexB atRax)) ready = true ∧
    completes (.vcvtph2psxEvex256 { evexR 2#5 1#5 with aaa := 1#3 }) ready = true ∧
    completes (.vcvtph2psEvex512 (evexSae 3#5 1#5)) ready = true := by decide +kernel
theorem step_completes_ready : leaves ready 0#5 0x477FE0007FC020003F80000033800000#512 0x1F81#32 0x1005#64 = true := by
  decide +kernel

theorem ready_inv : State.Inv ready where
  mem := ⟨by decide +kernel, by decide +kernel⟩
  denied := by decide +kernel
  pc := by decide +kernel
  mxcsr := fun b h => by
    by_cases hb : b < 32
    · revert b; decide +kernel
    · exact BitVec.getLsbD_of_ge _ _ (by omega)
  maxvl := fun i b h => BitVec.getLsbD_of_ge _ _ h
  nvreg := fun i h => absurd i.isLt (Nat.not_lt.2 h)
  kw := fun i b h => BitVec.getLsbD_of_ge _ _ h
theorem next_of_leaves {s : State} {i : BitVec 5} {v : VReg} {m : BitVec 32} {pc : Quad}
    (h : leaves s i v m pc = true) : ∃ t, step s = .next t := by
  unfold leaves at h
  split at h
  · exact ⟨_, ‹_›⟩
  · exact absurd h Bool.false_ne_true
  · exact absurd h Bool.false_ne_true
theorem witness_StepKeepsTheInvariant : State.Inv ready ∧ ∃ t, step ready = .next t :=
  ⟨ready_inv, next_of_leaves step_completes_ready⟩

theorem witness_NoFormIsEnabledAtReset : Spellable (.vcvtph2psxEvex512 (evexSae 31#5 31#5)) State.reset :=
  ⟨rfl, rfl, fun h => absurd h Bool.false_ne_true⟩

/-! The conversion, at the ends of each class. -/

theorem witness_ConversionIsExactOnFiniteValues :
    halfExp 0x0000#16 ≠ 31#5 ∧ halfExp 0x83FF#16 ≠ 31#5 ∧ halfExp 0x7BFF#16 ≠ 31#5 := by decide
theorem witness_ConversionOfInfinitiesAndNaNs :
    (halfExp 0xFC00#16 = 31#5 ∧ halfFrac 0xFC00#16 = 0#10) ∧ (halfExp 0x7C01#16 = 31#5 ∧ halfFrac 0x7C01#16 ≠ 0#10) ∧
    (halfExp 0xFFFF#16 = 31#5 ∧ halfFrac 0xFFFF#16 ≠ 0#10 ∧ resetConfig.nanResults.lookup 0xFFFF#16 = none) := by decide
/-- Another conversion than the default: it gives every NaN the quiet NaN of the opposite sign and no payload. -/
theorem witness_EveryAdmissibleConversionIsConfigurable (c : CpuConfig) :
    ∃ g : Half → Converted,
      (∀ h, halfIsNaN h = false → (g h).r = (cvtH2s c h).r) ∧
      (∀ h, halfIsNaN h = true → singleIsQuietNaN (g h).r = true) ∧
      (∀ h, (g h).inv = halfIsSignalingNaN h ∧ (g h).den = halfIsDenormal h) ∧ (g 0x7E00#16).r = 0xFFC00000#32 :=
  ⟨fun h => { cvtH2s c h with r := if halfIsNaN h then quietSingle ⟨~~~halfSign h, 0#22⟩ else (cvtH2s c h).r },
    fun h hn => by simp [hn], fun h hn => by simp [hn], fun h => by simp,
    by
      have hn : halfIsNaN 0x7E00#16 = true := by decide
      simp only [hn, if_true]
      decide⟩
theorem witness_ConversionLosesNothing :
    halfIsSignalingNaN 0x7E00#16 = false ∧ resetConfig.nanResults.lookup 0x7E00#16 = none ∧
    (cvtH2s resetConfig 0x7E00#16).r = (cvtH2s resetConfig 0x7E00#16).r ∧
    halfIsSignalingNaN 0x7DFF#16 = true := by decide
theorem witness_DenormalsAreNeverTreatedAsZero :
    halfIsDenormal 0x0001#16 = true ∧ halfIsDenormal 0x83FF#16 = true ∧
    (∃ t, exec (.vcvtph2psxEvex128 (evexR 0#5 1#5)) ready = .next t) ∧
    raises { ready with mxcsr := 0x1E80#32, mem := Memory.writeBytes [] 0x1000 (bytesOf 6 0xC113087DF662) } .xm = true :=
  ⟨by decide, by decide, next_of_completes (by decide +kernel), by decide +kernel⟩

/-! Completion: the invalid (and denormal) signal is raised and masked, or nothing is signalled. -/

theorem witness_VexRegisterFormsComplete :
    (vexInstr true (vexR 15#4 1#4)).wfIn ready.cfg.mode = true ∧ Enabled (Instr.form (vexInstr true (vexR 15#4 1#4))) ready ∧
    signalsInvalid (fun _ => true) 8 (halfLane (ready.readVec 1#5)) = true ∧ ready.im = true :=
  ⟨rfl, ready_enabled _, by decide +kernel, by decide +kernel⟩
theorem witness_VexMemoryFormsComplete :
    (vexInstr true (vexM atRax)).wfIn ready.cfg.mode = true ∧ Enabled (Instr.form (vexInstr true (vexM atRax))) ready ∧
    Readable ready (Instr.form (vexInstr true (vexM atRax)))
      (ready.linear false (vexInstr true (vexM atRax)).length 1 atRax) (2 * 8) ∧ ready.im = true :=
  ⟨rfl, ready_enabled _, by rw [ready_addr]; exact ready_readable _ (by decide), by decide +kernel⟩
theorem witness_EvexRegisterFormsComplete :
    (psInstr .v512 { evexR 31#5 1#5 with z := true, aaa := 2#3 }).wfIn ready.cfg.mode = true ∧
    (true = true → 2#3 ≠ 0#3) ∧ Enabled (Instr.form (psInstr .v512 { evexR 31#5 1#5 with z := true, aaa := 2#3 })) ready ∧
    signalsInvalid (laneSelected ready 2#3) 16 (halfLane (ready.readVec 1#5)) = true ∧ ready.im = true :=
  ⟨rfl, by decide, ready_enabled _, by decide +kernel, by decide +kernel⟩
theorem witness_EvexMemoryFormsComplete :
    (psInstr .v512 (evexM atRax)).wfIn ready.cfg.mode = true ∧ (false = true → 0#3 ≠ 0#3) ∧
    Enabled (Instr.form (psInstr .v512 (evexM atRax))) ready ∧
    Readable ready (Instr.form (psInstr .v512 (evexM atRax)))
      (ready.linear false (psInstr .v512 (evexM atRax)).length (VecLen.bits .v512 / 16) atRax)
      (VecLen.bits .v512 / 16) ∧
    NoAlignFault (Instr.form (psInstr .v512 (evexM atRax))) ready
      (ready.linear false (psInstr .v512 (evexM atRax)).length (VecLen.bits .v512 / 16) atRax) (VecLen.bits .v512 / 16) ∧
    ready.im = true :=
  ⟨rfl, by decide, ready_enabled _, by rw [ready_addr]; exact ready_readable _ (by decide), .inr (.inr (.inl rfl)), by decide +kernel⟩
theorem witness_PsxRegisterFormsComplete :
    (psxInstr .v128 (evexR 31#5 1#5)).wfIn ready.cfg.mode = true ∧ (false = true → 0#3 ≠ 0#3) ∧
    Enabled (Instr.form (psxInstr .v128 (evexR 31#5 1#5))) ready ∧
    signalsInvalid (laneSelected ready 0#3) 4 (halfLane (ready.readVec 1#5)) = true ∧ ready.im = true ∧
    signalsDenormal (laneSelected ready 0#3) 4 (halfLane (ready.readVec 1#5)) = true ∧ ready.dm = true :=
  ⟨rfl, by decide, ready_enabled _, by decide +kernel, by decide +kernel, by decide +kernel, by decide +kernel⟩
theorem witness_PsxMemoryFormsComplete :
    (psxInstr .v256 (evexM atRax)).wfIn ready.cfg.mode = true ∧ (false = true → 0#3 ≠ 0#3) ∧
    Enabled (Instr.form (psxInstr .v256 (evexM atRax))) ready ∧
    Readable ready (Instr.form (psxInstr .v256 (evexM atRax)))
      (ready.linear false (psxInstr .v256 (evexM atRax)).length (VecLen.bits .v256 / 16) atRax)
      (VecLen.bits .v256 / 16) ∧
    NoAlignFault (Instr.form (psxInstr .v256 (evexM atRax))) ready
      (ready.linear false (psxInstr .v256 (evexM atRax)).length (VecLen.bits .v256 / 16) atRax) (VecLen.bits .v256 / 16) ∧
    ready.im = true ∧ ready.dm = true :=
  ⟨rfl, by decide, ready_enabled _, by rw [ready_addr]; exact ready_readable _ (by decide),
    .inr (.inr (.inl rfl)), by decide +kernel, by decide +kernel⟩
theorem witness_PsxBroadcastFormsComplete :
    (psxInstr .v512 (evexB atRax)).wfIn ready.cfg.mode = true ∧ (false = true → 0#3 ≠ 0#3) ∧
    Enabled (Instr.form (psxInstr .v512 (evexB atRax))) ready ∧
    Readable ready (Instr.form (psxInstr .v512 (evexB atRax)))
      (ready.linear false (psxInstr .v512 (evexB atRax)).length 2 atRax) 2 ∧
    NoAlignFault (Instr.form (psxInstr .v512 (evexB atRax))) ready
      (ready.linear false (psxInstr .v512 (evexB atRax)).length 2 atRax) 2 ∧ ready.im = true ∧ ready.dm = true :=
  ⟨rfl, by decide, ready_enabled _, by rw [ready_addr]; exact ready_readable _ (by decide),
    .inr (.inr (.inl rfl)), by decide +kernel, by decide +kernel⟩
theorem witness_SaeFormsCompleteWithoutFlags :
    (Instr.vcvtph2psxEvex512 (evexSae 31#5 1#5)).wfIn ready.cfg.mode = true ∧
    (Instr.vcvtph2psEvex512 (evexSae 31#5 1#5)).wfIn ready.cfg.mode = true ∧ (false = true → 0#3 ≠ 0#3) ∧
    Enabled (Instr.form (.vcvtph2psxEvex512 (evexSae 31#5 1#5))) ready ∧
    Enabled (Instr.form (.vcvtph2psEvex512 (evexSae 31#5 1#5))) ready :=
  ⟨rfl, rfl, by decide, ready_enabled _, ready_enabled _⟩

/-! Traps and refusals. -/

theorem spellable_ready {i : Instr} (h : i.wfIn .mode64 = true) (hv : (Instr.operands i).vp = true)
    (hz : (Instr.operands i).z = false) : Spellable i ready :=
  ⟨h, hv, fun e => absurd (hz.symm.trans e) Bool.false_ne_true⟩

theorem witness_VexWRaisesInvalidOpcode :
    (vexInstr true { vexR 15#4 8#4 with w := true }).wfIn ready.cfg.mode = true ∧ ({ vexR 15#4 8#4 with w := true } : VexOps).w = true :=
  ⟨rfl, rfl⟩
theorem witness_ReservedVvvvRaisesInvalidOpcode :
    Spellable (.vcvtph2psxEvex128 { evexR 0#5 1#5 with vvvv := 14#4 }) ready ∧
    (Instr.operands (.vcvtph2psxEvex128 { evexR 0#5 1#5 with vvvv := 14#4 })).vvvv ≠ 15#4 ∧
    Spellable (.vcvtph2psVex128 { vexR 0#4 1#4 with vvvv := 0#4 }) ready ∧
    (Instr.operands (.vcvtph2psVex128 { vexR 0#4 1#4 with vvvv := 0#4 })).vvvv ≠ 15#4 :=
  ⟨spellable_ready rfl rfl rfl, by decide, spellable_ready rfl rfl rfl, by decide⟩
theorem witness_EvexWAndForbiddenBroadcastRaiseInvalidOpcode :
    (Spellable (.vcvtph2psEvex512 { evexSae 0#5 1#5 with w := true }) ready ∧
      (Instr.form (.vcvtph2psEvex512 { evexSae 0#5 1#5 with w := true })).enc = .evex ∧
      (Instr.operands (.vcvtph2psEvex512 { evexSae 0#5 1#5 with w := true })).w = true) ∧
    (Spellable (.vcvtph2psxEvex128 { evexR 0#5 1#5 with w := true }) ready ∧
      (Instr.operands (.vcvtph2psxEvex128 { evexR 0#5 1#5 with w := true })).w = true) ∧
    (Spellable (.vcvtph2psEvex256 (evexB atRax)) ready ∧ (Instr.form (.vcvtph2psEvex256 (evexB atRax))).psx = false ∧
      (Instr.operands (.vcvtph2psEvex256 (evexB atRax))).src = .mem atRax true) :=
  ⟨⟨spellable_ready rfl rfl rfl, rfl, rfl⟩, ⟨spellable_ready rfl rfl rfl, rfl⟩, spellable_ready rfl rfl rfl, rfl, rfl⟩
/-- `ready` on a processor with other CPUID flags. -/
def readyOn (f16c : Bool) (a : Option Avx512) : State := { ready with cfg := { ready.cfg with f16c := f16c, avx512 := a } }
theorem witness_MissingCpuidFlagRaisesInvalidOpcode :
    (Spellable (vexInstr true (vexR 0#4 1#4)) (readyOn false none) ∧ (readyOn false none).cfg.f16c = false) ∧
    (Spellable (evexInstr true .v256 (evexR 0#5 1#5)) (readyOn true (some ⟨false, true⟩)) ∧
      (readyOn true (some ⟨false, true⟩)).cfg.hasAvx512VL = false) ∧
    (Spellable (psInstr .v512 (evexR 0#5 1#5)) (readyOn true none) ∧ (readyOn true none).cfg.hasAvx512F = false) ∧
    (Spellable (psxInstr .v512 (evexR 0#5 1#5)) (readyOn true (some ⟨true, false⟩)) ∧
      (readyOn true (some ⟨true, false⟩)).cfg.hasAvx512Fp16 = false) ∧
    Spellable (.vcvtph2psEvex512 (evexSae 0#5 1#5)) (readyOn true none) ∧
    Spellable (.vcvtph2psxEvex512 (evexSae 0#5 1#5)) (readyOn true (some ⟨true, false⟩)) := by
  refine ⟨⟨⟨rfl, rfl, ?_⟩, rfl⟩, ⟨⟨rfl, rfl, ?_⟩, rfl⟩, ⟨⟨rfl, rfl, ?_⟩, rfl⟩, ⟨⟨rfl, rfl, ?_⟩, rfl⟩, ⟨rfl, rfl, ?_⟩,
    ⟨rfl, rfl, ?_⟩⟩ <;> exact fun h => absurd h Bool.false_ne_true
/-- `ready` with other enabling. -/
def readyXcr0 (osxsave : Bool) (x : Quad) : State :=
  { ready with ctl := { ready.ctl with cr4Osxsave := osxsave, xcr0 := x } }
theorem witness_VectorStateNotEnabledRaisesInvalidOpcode :
    Spellable (.vcvtph2psVex128 (vexR 0#4 1#4)) (readyXcr0 false 0xE7#64) ∧ (readyXcr0 false 0xE7#64).ctl.cr4Osxsave = false ∧
    (readyXcr0 true 0xE5#64).ctl.xcr0.getLsbD 1 = false ∧ (readyXcr0 true 0xE3#64).ctl.xcr0.getLsbD 2 = false ∧
    (Instr.form (.vcvtph2psEvex128 (evexR 0#5 1#5))).enc = .evex ∧ (readyXcr0 true 0xC7#64).ctl.xcr0.getLsbD 5 = false ∧
    (readyXcr0 true 0xA7#64).ctl.xcr0.getLsbD 6 = false ∧ (readyXcr0 true 0x67#64).ctl.xcr0.getLsbD 7 = false :=
  ⟨⟨rfl, rfl, fun h => absurd h Bool.false_ne_true⟩, rfl, rfl, rfl, rfl, rfl, rfl, rfl⟩
theorem legal_vex : Legal (.vcvtph2psVex128 (vexM atRax)) ready :=
  ⟨spellable_ready rfl rfl rfl, rfl, rfl, fun h => absurd h Bool.false_ne_true⟩
theorem legal_psx : Legal (.vcvtph2psxEvex128 (evexR 0#5 1#5)) ready :=
  ⟨spellable_ready rfl rfl rfl, rfl, rfl, fun _ => rfl⟩
/-- `ready` with CR0.TS set. -/
def readyTs : State := { ready with ctl := { ready.ctl with cr0Ts := true } }
theorem witness_TaskSwitchedRaisesDeviceNotAvailable :
    Legal (.vcvtph2psVex128 (vexM atRax)) readyTs ∧ Form.cpuidOk formVex128 readyTs.cfg = true ∧
    readyTs.ctl.osStateOk .vex = true ∧ readyTs.ctl.cr0Ts = true :=
  ⟨⟨⟨rfl, rfl, fun h => absurd h Bool.false_ne_true⟩, rfl, rfl, fun h => absurd h Bool.false_ne_true⟩, rfl, rfl, rfl⟩
/-- `ready` with Invalid, or Denormal, unmasked. -/
def readyMx (m : BitVec 32) : State := { ready with mxcsr := m }
theorem witness_UnmaskedExceptionFaults :
    Legal (.vcvtph2psxEvex128 (evexR 0#5 1#5)) (readyMx 0x1F00#32) ∧ Enabled formPsx128 (readyMx 0x1F00#32) ∧
    readSource formPsx128 (EvexOps.operands (evexR 0#5 1#5)) (readyMx 0x1F00#32) =
      .ok (fun j => halfLane ((readyMx 0x1F00#32).readVec 1#5) j) ∧
    (EvexOps.operands (evexR 0#5 1#5)).sae = false ∧
    (signalsInvalid (laneSelected (readyMx 0x1F00#32) 0#3) 4
      (fun j => halfLane ((readyMx 0x1F00#32).readVec 1#5) j) = true ∧ (readyMx 0x1F00#32).im = false) ∧
    (signalsDenormal (laneSelected (readyMx 0x1E80#32) 0#3) 4
      (fun j => halfLane ((readyMx 0x1E80#32).readVec 1#5) j) = true ∧ (readyMx 0x1E80#32).dm = false) :=
  ⟨⟨⟨rfl, rfl, fun h => absurd h Bool.false_ne_true⟩, rfl, rfl, fun _ => rfl⟩, ⟨rfl, rfl, rfl⟩, readSource_reg rfl,
    rfl, by decide +kernel, by decide +kernel⟩
theorem witness_ReservedFieldsAreRefusedByTheMeaning :
    (ready32.cfg.mode = .mode32 ∧ (Instr.vcvtph2psVex128 { vexR 0#4 1#4 with p67 := true }).p67 = true) ∧
    (Instr.operands (.vcvtph2psEvex128 { evexR 0#5 1#5 with vp := false })).vp = false ∧
    ((Instr.operands (.vcvtph2psEvex128 { evexR 0#5 1#5 with z := true })).z = true ∧
      (Instr.operands (.vcvtph2psEvex128 { evexR 0#5 1#5 with z := true })).aaa = 0#3) ∧
    (Instr.vcvtph2psVex128 (vexR 8#4 1#4)).low8 = false := by decide +kernel

theorem legal_vex_of (s : State) (h : s.cfg.mode = .mode64) : Legal (.vcvtph2psVex128 (vexM atRax)) s :=
  ⟨⟨by rw [h]; rfl, rfl, fun h => absurd h Bool.false_ne_true⟩, rfl, rfl, fun h => absurd h Bool.false_ne_true⟩
/-- The last byte of the operand is the first past the top. -/
def readyHigh : State := withGpr 0 0xFFFFFFFFFFFFFFF9#64 ready
theorem witness_OperandPastTheTopIsRefused :
    Legal (.vcvtph2psVex128 (vexM atRax)) readyHigh ∧ Enabled formVex128 readyHigh ∧
    readyHigh.top < operandAddr formVex128 (VexOps.operands (vexM atRax)) readyHigh atRax false +
      Form.readBytes formVex128 false :=
  ⟨legal_vex_of _ rfl, ⟨rfl, rfl, rfl⟩, by decide +kernel⟩
/-- Only the last byte of the operand is not mapped. -/
def readyHole : State := withGpr 0 0x2019#64 ready
theorem witness_UnmappedOperandRaisesPageFault :
    Legal (.vcvtph2psVex128 (vexM atRax)) readyHole ∧ Enabled formVex128 readyHole ∧
    operandAddr formVex128 (VexOps.operands (vexM atRax)) readyHole atRax false = 0x2019 ∧ 0x2019 + 8 ≤ readyHole.top ∧
    (∀ x, 0x2019 ≤ x → x < 0x2019 + 8 → denialAt readyHole formVex128 0x2019 8 x = none) ∧
    (∀ x, 0x2019 ≤ x → x < 0x2019 + 7 → (Memory.read readyHole.mem x).isSome = true) ∧
    Memory.read readyHole.mem (0x2019 + 7) = none :=
  ⟨legal_vex_of _ rfl, ⟨rfl, rfl, rfl⟩, rfl, by decide +kernel, by decide +kernel, by decide +kernel, by decide +kernel⟩
/-- The answers at bytes of an 8-byte read at `a`, at the turn of `ready`. -/
def deny (f : Form) (a : Nat) (l : List (Nat × MemFault)) : List (ReadKey × MemFault) :=
  l.map fun d => ({ turn := ready.turn, form := f, addr := a, size := 8, byte := d.1 }, d.2)
/-- A page fault at the first byte of form 1's read, a segment fault at the last; form 3 is answered the bytes. -/
def readyDenied (d : MemFault) : State :=
  { ready with denied := deny formVex128 0x2000 [(0x2000, .pf 4#32), (0x2007, d)] }
theorem witness_SegmentFaultsComeBeforePageFaults :
    Legal (.vcvtph2psVex128 (vexM atRax)) (readyDenied .ss) ∧ Enabled formVex128 (readyDenied .ss) ∧
    operandAddr formVex128 (VexOps.operands (vexM atRax)) (readyDenied .ss) atRax false = 0x2000 ∧
    0x2000 + 8 ≤ (readyDenied .ss).top ∧ denialAt (readyDenied .ss) formVex128 0x2000 8 0x2007 = some .ss ∧
    denialAt (readyDenied .gp) formVex128 0x2000 8 0x2007 = some .gp ∧
    (∀ y, 0x2000 ≤ y → y < 0x2007 → denialAt (readyDenied .ss) formVex128 0x2000 8 y ≠ some .ss ∧
      denialAt (readyDenied .ss) formVex128 0x2000 8 y ≠ some .gp) :=
  ⟨legal_vex_of _ rfl, ⟨rfl, rfl, rfl⟩, rfl, by decide +kernel, by decide +kernel, by decide +kernel, by decide +kernel⟩
/-- The oracle answers by form, and by turn. -/
theorem test_oracle_by_form_and_turn : oracleFault (readyDenied .gp) formVex128 0x2000 8 = some .gp ∧
    oracleFault (readyDenied .gp) formEvex128 0x2000 8 = none ∧
    oracleFault (readyDenied .gp).nextTurn formVex128 0x2000 8 = none := by decide +kernel

/-- Alignment checking enabled at privilege level 3, `evex_ac` true, the operand at `a`; the oracle answers `#AC(0)` to
form 3 at 2001H. -/
def readyAc (a : Quad) : State :=
  { withGpr 0 a ready with
    ctl := { ready.ctl with cr0Am := true, cpl := 3#2 }
    rflags := 0x40002#64
    denied := deny formEvex128 0x2001 [(0x2001, .ac)] }
theorem witness_NoAlignmentFaultWhereNotAllowed :
    (Instr.form (.vcvtph2psVex128 (vexM atRax))).enc = .vex ∧ State.reset.ctl.cr0Am = false ∧
    State.reset.rflags.getLsbD 18 = false ∧ State.reset.ctl.cpl ≠ 3#2 ∧
    ({ ready.cfg with evexAc := false } : CpuConfig).evexAc = false ∧
    (Instr.operands (.vcvtph2psEvex128 (evexR 0#5 1#5))).src = .reg 1#5 false ∧
    operandAddr formEvex128 (EvexOps.operands (evexM atRax)) (readyAc 0x2008#64) atRax false %
      Form.readBytes formEvex128 false = 0 :=
  ⟨rfl, rfl, rfl, by decide, rfl, rfl, by decide +kernel⟩
theorem witness_MisalignedEvexOperandTakesTheOraclesAnswer :
    Legal (.vcvtph2psEvex128 (evexM atRax)) (readyAc 0x2001#64) ∧ Enabled formEvex128 (readyAc 0x2001#64) ∧
    operandAddr formEvex128 (EvexOps.operands (evexM atRax)) (readyAc 0x2001#64) atRax false = 0x2001 ∧
    Readable (readyAc 0x2001#64) formEvex128 0x2001 8 ∧ (readyAc 0x2001#64).cfg.evexAc = true ∧
    (readyAc 0x2001#64).alignmentChecked = true ∧ 0x2001 % Form.readBytes formEvex128 false ≠ 0 ∧
    denialAt (readyAc 0x2001#64) formEvex128 0x2001 8 0x2001 = some .ac :=
  ⟨⟨⟨rfl, rfl, fun h => absurd h Bool.false_ne_true⟩, rfl, rfl, fun h => absurd h Bool.false_ne_true⟩, ⟨rfl, rfl, rfl⟩,
    rfl, ⟨by decide +kernel, by decide +kernel⟩, rfl, by decide +kernel, by decide, by decide +kernel⟩
theorem witness_OracleMayAnswerEachReadItsOwnWay :
    (∀ x, 0x2001 ≤ x → x < 0x2001 + 8 → (Memory.read (readyAc 0x2001#64).mem x).isSome = true) ∧
    formEvex128.enc = .evex ∧ (readyAc 0x2001#64).cfg.evexAc = true ∧ (readyAc 0x2001#64).alignmentChecked = true ∧
    0x2001 % 8 ≠ 0 := ⟨by decide +kernel, rfl, rfl, by decide +kernel, by decide⟩
theorem test_ac_raised : execRaises (.vcvtph2psEvex128 (evexM atRax)) (readyAc 0x2001#64) .ac = true ∧
    completes (.vcvtph2psxEvex128 (evexM atRax)) (readyAc 0x2001#64) = true := by decide +kernel
theorem witness_FaultsArePrecise :
    step { ready with mem := Memory.writeBytes [] 0x1000 (bytesOf 6 0xC11379E2C466) } = .fault .ud ∧
    execRaises (.vcvtph2psVex128 (vexM atRax)) (readyDenied .gp) .gp = true ∧
    execRaises (.vcvtph2psVex128 (vexM atRax)) readyHole .pf = true ∧
    raises (readyMx 0x1F00#32) .xm = true :=
  ⟨rfl, by decide +kernel, by decide +kernel, by decide +kernel⟩

/-! The whole machine. -/

theorem witness_CompletedFormsKeepTheFrame : ∃ t, exec (.vcvtph2psVex128 (vexR 0#4 1#4)) ready = .next t :=
  next_of_completes completes_ready.1
theorem witness_OnlyStickyFlagsOfMxcsrChange :
    ∃ t, exec (.vcvtph2psxEvex512 (widenOps (evexR 31#5 1#5))) ready = .next t ∧ t.mxcsr.getLsbD 1 ≠ ready.mxcsr.getLsbD 1 := by
  obtain ⟨t, h⟩ := next_of_completes completes_ready.2.1
  refine ⟨t, h, ?_⟩
  have : (match exec (.vcvtph2psxEvex512 (widenOps (evexR 31#5 1#5))) ready with
    | .next t => t.mxcsr == 0x1F83#32 | .fault _ | .refused _ => false) = true := by decide +kernel
  rw [h] at this
  rw [eq_of_beq this]
  decide +kernel
theorem witness_PcAdvancesByTheLength :
    ∃ t, exec (.vcvtph2psVex128 (vexR 0#4 1#4)) { ready32 with pc := 0xFFFFFFFF#64 } = .next t :=
  next_of_completes (by decide +kernel)
theorem witness_OtherMxcsrBitsPlayNoPart :
    (0xFFFF#32).getLsbD 7 = ready.im ∧ (0xFFFF#32).getLsbD 8 = ready.dm ∧
    ∃ t, exec (.vcvtph2psxEvex128 (evexB atRax)) ready = .next t :=
  ⟨by decide +kernel, by decide +kernel, next_of_completes completes_ready.2.2.1⟩
theorem witness_UpperSourceBitsAreNotRead :
    (VexOps.operands (vexR 0#4 1#4)).src = .reg 1#5 false ∧ 1#5 ≠ (VexOps.operands (vexR 0#4 1#4)).dst ∧
    (∀ b, b < VecLen.bits .v128 / 2 → (ready.readVec 1#5 ||| 1#512 <<< 64).getLsbD b = (ready.readVec 1#5).getLsbD b) ∧
    ∃ t, exec (.vcvtph2psVex128 (vexR 0#4 1#4)) ready = .next t :=
  ⟨rfl, by decide, by decide +kernel, next_of_completes completes_ready.1⟩
theorem witness_RegisterSourcesReadNoMemory :
    (Instr.operands (.vcvtph2psEvex512 (evexSae 3#5 1#5))).src = .reg 1#5 true ∧
    ∃ t, exec (.vcvtph2psEvex512 (evexSae 3#5 1#5)) ready = .next t :=
  ⟨rfl, next_of_completes completes_ready.2.2.2.2⟩
theorem witness_MaskWidthChangesNoResult :
    ∃ t, exec (.vcvtph2psxEvex256 { evexR 2#5 1#5 with aaa := 1#3 }) ready = .next t :=
  next_of_completes completes_ready.2.2.2.1
theorem witness_DestinationRegisterExists :
    ∃ t, exec (.vcvtph2psxEvex512 (widenOps (evexR 31#5 1#5))) ready = .next t :=
  next_of_completes completes_ready.2.1
theorem witness_EmptyMaskSignalsNothing :
    (∀ j, j < VecLen.lanes .v256 → laneSelected ready 1#3 j = false) ∧
    ∃ t, exec (.vcvtph2psxEvex256 { evexR 2#5 1#5 with aaa := 1#3 }) ready = .next t :=
  ⟨by decide +kernel, next_of_completes completes_ready.2.2.2.1⟩
/-- Lanes 0 to 3 are selected; element 4 of the register, and the byte 2008H of memory, are another's. -/
theorem witness_UnselectedLanesDoNotMatter :
    1#5 ≠ 2#5 ∧ (Instr.operands (.vcvtph2psxEvex256 { evexR 2#5 1#5 with aaa := 2#3 })).src = .reg 1#5 false ∧
    (∀ j, j < VecLen.lanes .v256 → laneSelected ready 2#3 j = true →
      halfLane (ready.readVec 1#5 ^^^ 1#512 <<< 64) j = halfLane (ready.readVec 1#5) j) ∧
    laneSelected ready 2#3 4 = false ∧
    (Instr.operands (.vcvtph2psxEvex256 { evexM atRax with aaa := 2#3 })).src = .mem atRax false ∧
    Memory.read (Memory.write ready.mem 0x2008 0xA5#8) 0x2008 ≠ Memory.read ready.mem 0x2008 ∧
    (∀ j, j < VecLen.lanes .v256 → laneSelected ready 2#3 j = true → ∀ x, 0x2000 + 2 * j ≤ x → x < 0x2000 + 2 * j + 2 →
      Memory.read (Memory.write ready.mem 0x2008 0xA5#8) x = Memory.read ready.mem x) :=
  ⟨by decide, rfl, by decide +kernel, by decide +kernel, rfl, by decide +kernel, by decide +kernel⟩
theorem write_isSome (x : Nat) :
    (Memory.read (Memory.write ready.mem 0x2008 0xA5#8) x).isSome = (Memory.read ready.mem x).isSome := by
  by_cases h : x = 0x2008
  · subst h; decide +kernel
  · rw [read_write_other _ _ h]
theorem witness_VexAndEvexEncodingsAgree :
    Enabled (Instr.form (psInstr .v128 (evexR 0#5 1#5))) ready ∧
    (∃ t, exec (vexInstr false (vexR 0#4 1#4)) ready = .next t) ∧
    (ready.linear false (psInstr .v128 (evexM atRax)).length (VecLen.bits .v128 / 16) atRax =
      ready.linear false (vexInstr false (vexM atRax)).length 1 atRax ∧
      Readable ready (Instr.form (psInstr .v128 (evexM atRax)))
        (ready.linear false (psInstr .v128 (evexM atRax)).length (VecLen.bits .v128 / 16) atRax) (VecLen.bits .v128 / 16) ∧
      NoAlignFault (Instr.form (psInstr .v128 (evexM atRax))) ready
        (ready.linear false (psInstr .v128 (evexM atRax)).length (VecLen.bits .v128 / 16) atRax) (VecLen.bits .v128 / 16)) ∧
    (∃ t, exec (vexInstr false (vexM atRax)) ready = .next t) :=
  ⟨ready_enabled _, next_of_completes completes_ready.1,
    ⟨rfl, by rw [ready_addr]; exact ready_readable _ (by decide), .inr (.inr (.inl rfl))⟩,
    next_of_completes (by decide +kernel)⟩
theorem witness_PsxAndPsGiveTheSameLanes :
    (Instr.form (.vcvtph2psxEvex512 (evexSae 0#5 1#5))).psx = true ∧
    (Instr.operands (.vcvtph2psxEvex512 (evexSae 0#5 1#5))).bcst = false ∧
    (∃ t, exec (.vcvtph2psxEvex512 (evexSae 0#5 1#5)) ready = .next t) ∧
    Readable ready formEvex128 (operandAddr formEvex128 (EvexOps.operands (evexM atRax)) ready atRax false)
      (Form.readBytes formEvex128 false) ∧
    NoAlignFault formEvex128 ready (operandAddr formEvex128 (EvexOps.operands (evexM atRax)) ready atRax false)
      (Form.readBytes formEvex128 false) ∧
    (∃ t, exec (.vcvtph2psxEvex128 (evexM atRax)) ready = .next t) :=
  ⟨rfl, rfl, next_of_completes (by decide +kernel), ready_readable _ (by decide), .inr (.inr (.inl rfl)),
    next_of_completes (by decide +kernel)⟩

end Sys2Proof.Tests
end

section
/-! SUPPORT. The scope of the machine (00_scope.md): a step is exec of what it decodes (R7), a form is there when its
CPUID flags are (R2), and a completed form leaves its frame alone (R8). -/

namespace Sys2Proof.Machine

/-! ### The CPUID flags of a form (R2) -/

theorem cpuidOk_vex {f : Form} (h : f.enc = .vex) (c : CpuConfig) : f.cpuidOk c = c.f16c := by
  simp [Form.cpuidOk, h]

/-- An EVEX form needs the flag of its mnemonic, and AVX512VL too below 512 bits. -/
theorem cpuidOk_evex {f : Form} (h : f.enc = .evex) (c : CpuConfig) :
    f.cpuidOk c =
      ((if f.psx then c.hasAvx512Fp16 else c.hasAvx512F) && (f.vl == .v512 || c.hasAvx512VL)) := by
  simp [Form.cpuidOk, h]

theorem cpuidOk_eq_false_of_vl {f : Form} {c : CpuConfig} (he : f.enc = .evex) (hvl : f.vl ≠ .v512)
    (hc : c.hasAvx512VL = false) : f.cpuidOk c = false := by
  simp [cpuidOk_evex he, hvl, hc]

theorem cpuidOk_eq_false_of_ps {f : Form} {c : CpuConfig} (he : f.enc = .evex) (hp : f.psx = false)
    (hc : c.hasAvx512F = false) : f.cpuidOk c = false := by
  simp [cpuidOk_evex he, hp, hc]

theorem cpuidOk_eq_false_of_psx {f : Form} {c : CpuConfig} (he : f.enc = .evex) (hp : f.psx = true)
    (hc : c.hasAvx512Fp16 = false) : f.cpuidOk c = false := by
  simp [cpuidOk_evex he, hp, hc]

/-! ### The rows that the claims' names of instructions stand for (R60) -/

theorem form_vexInstr_enc (l256 : Bool) (x : VexOps) : (Instr.form (vexInstr l256 x)).enc = .vex := by
  cases l256 <;> rfl

theorem form_psInstr (vl : VecLen) (x : EvexOps EvexSrc) :
    Instr.form (psInstr vl x) = { enc := .evex, psx := false, vl := vl } := by
  cases vl <;> rfl

theorem form_psxInstr (vl : VecLen) (x : EvexOps EvexSrc) :
    Instr.form (psxInstr vl x) = { enc := .evex, psx := true, vl := vl } := by
  cases vl <;> rfl

theorem form_evexInstr (psx : Bool) (vl : VecLen) (x : EvexOps EvexSrc) :
    Instr.form (evexInstr psx vl x) = { enc := .evex, psx := psx, vl := vl } := by
  cases psx
  · exact form_psInstr vl x
  · exact form_psxInstr vl x

/-! ### What exec does where a flag is missing, and where it completes -/

/-- A missing CPUID flag is one of the `#UD` conditions (R150 row 5). -/
theorem exec_eq_ud_of_cpuidOk_eq_false {i : Instr} {s : State} (h : Spellable i s)
    (hc : (Instr.form i).cpuidOk s.cfg = false) : exec i s = .fault .ud :=
  exec_eq_ud h (by simp [invalidOpcode, hc])

/-- The next state of a completed instruction is the commit of the source it read. -/
theorem exec_next_eq_commit {i : Instr} {s t : State} (h : exec i s = .next t) :
    ∃ src, t = commit (Instr.form i) (Instr.operands i) s src := by
  rw [exec_eq_convertForm, convertForm_next_iff] at h
  obtain ⟨-, src, -, -, ht⟩ := h
  exact ⟨src, ht⟩

/-! ### The obligations -/

/-- Settles O11: a step's own match on what the decoder answers. -/
theorem stepRunsTheDecodedInstruction : Obligations.StepRunsTheDecodedInstruction := by
  intro s i rest h
  rw [step, h]

/-- Settles O34: for each row of R2's table the named flag alone makes `cpuidOk` false. -/
theorem missingCpuidFlagRaisesInvalidOpcode : Obligations.MissingCpuidFlagRaisesInvalidOpcode := by
  intro s l256 v psx vl x y
  refine ⟨fun h hc => ?vex, fun h hvl hc => ?evex, fun h hc => ?ps, fun h hc => ?psx,
    fun h hc => ?ps512, fun h hc => ?psx512⟩ <;> apply exec_eq_ud_of_cpuidOk_eq_false h
  case vex => rw [cpuidOk_vex (form_vexInstr_enc l256 v), hc]
  case evex => rw [form_evexInstr]; exact cpuidOk_eq_false_of_vl rfl hvl hc
  case ps => rw [form_psInstr]; exact cpuidOk_eq_false_of_ps rfl rfl hc
  case psx => rw [form_psxInstr]; exact cpuidOk_eq_false_of_psx rfl rfl hc
  case ps512 => exact cpuidOk_eq_false_of_ps rfl rfl hc
  case psx512 => exact cpuidOk_eq_false_of_psx rfl rfl hc

/-- Settles O47: the next state is a commit, and a commit keeps the frame. -/
theorem completedFormsKeepTheFrame : Obligations.CompletedFormsKeepTheFrame := by
  intro s t i h
  obtain ⟨src, rfl⟩ := exec_next_eq_commit h
  exact commit_frame (Instr.form i) (Instr.operands i) s src

end Sys2Proof.Machine
end

section
/-! SUPPORT. The state (10_state.md): the registers that exist (R20), the invariant and its preservation, reset (R33),
and the instruction pointer (R28). -/

namespace Sys2Proof.Machine

/-! ### The checks that a completed instruction has passed -/

/-- `exec` completes exactly as the shared operation does. -/
theorem exec_next_iff {i : Instr} {s t : State} :
    exec i s = .next t ↔
      gate (Instr.form i) (Instr.operands i) s = none ∧
      ∃ src, readSource (Instr.form i) (Instr.operands i) s = .ok src ∧
        ((Instr.operands i).sae = true ∨ s.unmasked (signals (Instr.form i) (Instr.operands i) s src) = false) ∧
        t = commit (Instr.form i) (Instr.operands i) s src := by
  rw [exec_eq_convertForm, convertForm_next_iff]

/-- A step that completes is a completed instruction. -/
theorem exec_next_of_step_next {s t : State} (h : step s = .next t) : ∃ i, exec i s = .next t := by
  unfold step at h
  split at h
  case h_1 i _ _ => exact ⟨i, h⟩
  all_goals cases h

theorem encodingRefusal_eq_none_iff {o : Operands} {s : State} :
    encodingRefusal o s = none ↔
      (s.cfg.mode = .mode32 → o.p67 = false) ∧ o.vp = true ∧ (o.z = true → o.aaa ≠ 0#3) ∧
        (s.cfg.mode = .mode32 → o.low8 = true) := by
  unfold encodingRefusal
  split_ifs <;> simp_all

theorem cpuidOk_of_invalidOpcode_eq_false {f : Form} {o : Operands} {s : State} (h : invalidOpcode f o s = false) :
    f.cpuidOk s.cfg = true := by
  simp only [invalidOpcode, Bool.or_eq_false_iff, Bool.not_eq_false'] at h
  exact h.1.2

theorem low8_and_cpuidOk_of_exec_next {i : Instr} {s t : State} (h : exec i s = .next t) :
    (s.cfg.mode = .mode32 → i.low8 = true) ∧ (Instr.form i).cpuidOk s.cfg = true := by
  obtain ⟨hgate, -⟩ := exec_next_iff.1 h
  obtain ⟨henc, hop, -⟩ := gate_eq_none_iff.1 hgate
  obtain ⟨-, -, -, hlow8⟩ := encodingRefusal_eq_none_iff.1 henc
  exact ⟨by simpa using hlow8, cpuidOk_of_invalidOpcode_eq_false hop⟩

/-! ### Which registers exist (R20) -/

@[simp] theorem VexOps.operands_dst_toNat (x : VexOps) : (VexOps.operands x).dst.toNat = x.dst.toNat :=
  BitVec.toNat_setWidth_of_le (by decide)

theorem dst_lt_of_low8 {i : Instr} (h : i.low8 = true) : (Instr.operands i).dst.toNat < 8 := by
  cases i <;> simp only [Instr.low8, Bool.and_eq_true, decide_eq_true_eq] at h
  case vcvtph2psVex128 x | vcvtph2psVex256 x => simpa [Instr.operands] using h.1
  all_goals exact h.1

theorem dst_lt_of_vex {i : Instr} (h : (Instr.form i).enc = .vex) : (Instr.operands i).dst.toNat < 16 := by
  cases i
  case vcvtph2psVex128 x | vcvtph2psVex256 x => simpa [Instr.operands] using x.dst.isLt
  all_goals cases h

theorem hasAvx512F_of_fp16 {c : CpuConfig} (h : c.hasAvx512Fp16 = true) : c.hasAvx512F = true := by
  obtain ⟨a, ha, -⟩ := (Option.any_eq_true _ _).1 h
  simp [CpuConfig.hasAvx512F, ha]

/-- Every EVEX form needs AVX512F, VCVTPH2PSX through AVX512_FP16 (R2, R6). -/
theorem hasAvx512F_of_cpuidOk_evex {f : Form} {c : CpuConfig} (he : f.enc = .evex) (h : f.cpuidOk c = true) :
    c.hasAvx512F = true := by
  rw [cpuidOk_evex he, Bool.and_eq_true] at h
  cases hp : f.psx <;> simp only [hp, if_true, if_false, Bool.false_eq_true] at h
  · exact h.1
  · exact hasAvx512F_of_fp16 h.1

/-- Settles O54: Mode32 admits the registers below 8 only, an EVEX form needs AVX512F and with it has all 32, and a
VEX form has four bits for its destination. -/
theorem destinationRegisterExists : Obligations.DestinationRegisterExists := by
  intro s t i h
  obtain ⟨hlow8, hcpu⟩ := low8_and_cpuidOk_of_exec_next h
  unfold CpuConfig.nvreg
  cases hm : s.cfg.mode
  case mode32 => exact dst_lt_of_low8 (hlow8 hm)
  case mode64 =>
    by_cases havx : s.cfg.hasAvx512F = true
    · simpa [havx] using (Instr.operands i).dst.isLt
    · cases he : (Instr.form i).enc
      case vex => simpa [havx] using dst_lt_of_vex he
      case evex => exact absurd (hasAvx512F_of_cpuidOk_evex he hcpu) havx

/-! ### The invariant, field by field -/

theorem top_le (s : State) : s.top ≤ 2 ^ 64 := by
  unfold State.top Mode.addrBits
  cases s.cfg.mode <;> simp

theorem top_pos (s : State) : 0 < s.top := Nat.two_pow_pos _

/-- The next `pc` is in the address space of the mode (R28). -/
theorem pcAfter_toNat (s : State) (n : Nat) : (s.pcAfter n).toNat = (s.pc.toNat + n) % s.top := by
  have := Nat.mod_lt (s.pc.toNat + n) (top_pos s)
  exact BitVec.toNat_ofNat .. |>.trans (Nat.mod_eq_of_lt (this.trans_le (top_le s)))

/-- MXCSR keeps its bits from 2 on: the sticky flags are bits 0 and 1 (R25, R108). -/
theorem commit_mxcsr_getLsbD (f : Form) (o : Operands) (s : State) (src : Nat → Half) {b : Nat} (hb : 2 ≤ b) :
    (commit f o s src).mxcsr.getLsbD b = s.mxcsr.getLsbD b := by
  have h0 : b ≠ 0 := by omega
  have h1 : b ≠ 1 := by omega
  rw [commit_mxcsr]
  split
  · rfl
  · simp [stickyFlags_getLsbD, h0, h1]

/-- A bit above MAXVL does not exist (R20). -/
theorem vecMask_getLsbD_of_maxvl_le (s : State) (v : VReg) {b : Nat} (hb : s.cfg.maxvl ≤ b) :
    (s.vecMask v).getLsbD b = false := by
  unfold CpuConfig.maxvl at hb
  rw [vecMask_getLsbD]
  split at hb
  · simp [BitVec.getLsbD_of_ge v b hb]
  · simp_all

/-- What a commit leaves in a vector register: the packed lanes, cut to MAXVL, in the destination. -/
theorem commit_zmm_getElem (f : Form) (o : Operands) (s : State) (src : Nat → Half) (i : BitVec 5) :
    (commit f o s src).zmm[i.toNat]'i.isLt =
      if i = o.dst then s.vecMask (packLanes (resultLane o s src) f.vl.lanes) else s.zmm[i.toNat]'i.isLt := by
  simp [Vector.getElem_set, BitVec.toNat_eq, eq_comm]

/-- A commit to a register that exists keeps the invariant. -/
theorem commit_inv {f : Form} {o : Operands} {s : State} (src : Nat → Half) (h : s.Inv)
    (hdst : o.dst.toNat < s.cfg.nvreg) : (commit f o s src).Inv where
  mem := h.mem
  denied := h.denied
  pc := by
    rw [commit_pc, pcAfter_toNat]
    exact Nat.mod_lt _ (top_pos s)
  mxcsr b hb := by
    rw [commit_mxcsr_getLsbD f o s src (by omega)]
    exact h.mxcsr b hb
  maxvl i b hb := by
    rw [commit_zmm_getElem]
    split
    · exact vecMask_getLsbD_of_maxvl_le s _ hb
    · exact h.maxvl i b hb
  nvreg i hi := by
    have hi' : i ≠ o.dst := fun e => Nat.not_le.2 hdst (e ▸ hi)
    rw [commit_zmm_getElem, if_neg hi']
    exact h.nvreg i hi
  kw := h.kw

/-- Settles O16: a completed step is a commit, and its destination exists (O54). -/
theorem stepKeepsTheInvariant : Obligations.StepKeepsTheInvariant := by
  intro s t hs hstep
  obtain ⟨i, hexec⟩ := exec_next_of_step_next hstep
  have hdst := destinationRegisterExists s t i hexec
  obtain ⟨src, rfl⟩ := exec_next_eq_commit hexec
  exact commit_inv src hs hdst

/-! ### Reset (R33) -/

theorem reset_zmm_getElem (i : BitVec 5) : State.reset.zmm[i.toNat]'i.isLt = 0#512 := Vector.getElem_replicate ..

theorem reset_k_getElem (i : BitVec 3) : State.reset.k[i.toNat]'i.isLt = 0#64 := Vector.getElem_replicate ..

/-- The operating system has not enabled the vector state, for VEX forms or EVEX forms (R33, R153). -/
theorem reset_osStateOk (e : PrefixKind) : State.reset.ctl.osStateOk e = false := rfl

/-- Settles O14, register by register. -/
theorem resetValues : Obligations.ResetValues := by
  refine ⟨rfl, fun i => ?vectors, fun i => ?masks, reset_osStateOk, rfl⟩
  case vectors => rw [State.readVec, reset_zmm_getElem]; rfl
  case masks => exact reset_k_getElem i

/-- Settles O15. -/
theorem resetMeetsTheInvariant : Obligations.ResetMeetsTheInvariant where
  mem := ⟨List.Pairwise.nil, fun _ hc => absurd hc List.not_mem_nil⟩
  denied := List.Pairwise.nil
  pc := by decide
  mxcsr _ hb := Nat.testBit_lt_two_pow ((by decide : 0x1F80 < 2 ^ 16).trans_le (Nat.pow_le_pow_right two_pos hb))
  maxvl i b _ := by rw [reset_zmm_getElem, BitVec.getLsbD_zero]
  nvreg i _ := reset_zmm_getElem i
  kw i b _ := by rw [reset_k_getElem, BitVec.getLsbD_zero]

/-- Settles O17: `osStateOk` is one of the `#UD` conditions (R150 row 6). -/
theorem noFormIsEnabledAtReset : Obligations.NoFormIsEnabledAtReset := by
  intro i h
  exact exec_eq_ud h (by simp [invalidOpcode, reset_osStateOk])

/-! ### The instruction pointer (R28) -/

theorem pcAfter_mode64 {s : State} (hm : s.cfg.mode = .mode64) (n : Nat) :
    s.pcAfter n = s.pc + BitVec.ofNat 64 n := by
  apply BitVec.eq_of_toNat_eq
  simp [pcAfter_toNat, State.top, Mode.addrBits, hm]

theorem pcAfter_mode32 {s : State} (hm : s.cfg.mode = .mode32) (n : Nat) :
    s.pcAfter n = ((s.pc + BitVec.ofNat 64 n).setWidth 32).setWidth 64 := by
  apply BitVec.eq_of_toNat_eq
  simp only [pcAfter_toNat, State.top, Mode.addrBits, hm, BitVec.toNat_setWidth, BitVec.toNat_add, BitVec.toNat_ofNat]
  omega

/-- Settles O49: the commit's `pcAfter`, as a sum of bit vectors in each mode. -/
theorem pcAdvancesByTheLength : Obligations.PcAdvancesByTheLength := by
  intro s t i h
  obtain ⟨src, rfl⟩ := exec_next_eq_commit h
  rw [commit_pc, operands_len]
  cases hm : s.cfg.mode
  case mode64 => exact pcAfter_mode64 hm _
  case mode32 => exact pcAfter_mode32 hm _

end Sys2Proof.Machine
end

section
/-! SUPPORT. What a completed instruction does not depend on: MXCSR beyond IM and DM (R27), the upper bits of a
register source (R72), and the width of a mask (R23). -/

namespace Sys2Proof.Machine

/-! ### Results that agree where the selected elements agree -/

/-- Two reads, each at its state, give the form the same elements: the masks select the same lanes, and the elements of
those lanes agree. -/
def SameElements (f : Form) (o : Operands) (s s' : State) (src src' : Nat → Half) : Prop :=
  ∀ j, j < f.vl.lanes → o.selects s' j = o.selects s j ∧ (o.selects s j = true → src' j = src j)

section Congruence
variable {f : Form} {o : Operands} {s s' : State} {src src' : Nat → Half}

/-- Elements that agree in every lane, under one selection. -/
theorem SameElements.of_forall_lt (hsel : ∀ j, j < f.vl.lanes → o.selects s' j = o.selects s j)
    (hsrc : ∀ j, j < f.vl.lanes → src' j = src j) : SameElements f o s s' src src' :=
  fun j hj => ⟨hsel j hj, fun _ => hsrc j hj⟩

/-- Whether some selected lane has a property. -/
theorem SameElements.any_eq (h : SameElements f o s s' src src') (p : Half → Bool) :
    ((List.range f.vl.lanes).any fun j => o.selects s' j && p (src' j)) =
      (List.range f.vl.lanes).any fun j => o.selects s j && p (src j) := by
  rw [Bool.eq_iff_iff]
  simp only [List.any_eq_true, List.mem_range, Bool.and_eq_true]
  refine exists_congr fun j => and_congr_right fun hj => ?_
  obtain ⟨hsel, hsrc⟩ := h j hj
  rw [hsel]
  exact and_congr_right fun hs => by rw [hsrc hs]

theorem SameElements.signals_eq (h : SameElements f o s s' src src') : signals f o s' src' = signals f o s src := by
  simp only [signals, cvtH2s_inv, cvtH2s_den, h.any_eq]

theorem packLanes_congr {g g' : Nat → Single} {n : Nat} (h : ∀ j, j < n → g' j = g j) :
    packLanes g' n = packLanes g n := by
  induction n with
  | zero => rfl
  | succ n ih => rw [packLanes, packLanes, ih fun j hj => h j (by omega), h n (by omega)]

/-- What is written, where the conversion and the old destination agree too. -/
theorem SameElements.packLanes_eq (h : SameElements f o s s' src src') (hnan : s'.cfg.nanResults = s.cfg.nanResults)
    (hdst : s'.readVec o.dst = s.readVec o.dst) :
    packLanes (resultLane o s' src') f.vl.lanes = packLanes (resultLane o s src) f.vl.lanes := by
  refine packLanes_congr fun j hj => ?_
  obtain ⟨hsel, hsrc⟩ := h j hj
  rw [resultLane, resultLane, hsel, hdst, cvtH2s_congr hnan]
  split
  · next hs => rw [hsrc hs]
  · rfl

theorem SameElements.commit_mxcsr_eq (h : SameElements f o s s' src src') (hm : s'.mxcsr = s.mxcsr) :
    (commit f o s' src').mxcsr = (commit f o s src).mxcsr := by
  rw [commit_mxcsr, commit_mxcsr, h.signals_eq, hm]

theorem commit_pc_eq (hpc : s'.pc = s.pc) (hmode : s'.cfg.mode = s.cfg.mode) :
    (commit f o s' src').pc = (commit f o s src).pc := by
  rw [commit_pc, commit_pc, State.pcAfter, State.pcAfter, State.top, State.top, hpc, hmode]

/-- What the checks of R161 steps 1 and 2 depend on. -/
theorem gate_congr (hmode : s'.cfg.mode = s.cfg.mode) (hcpu : f.cpuidOk s'.cfg = f.cpuidOk s.cfg)
    (hctl : s'.ctl = s.ctl) : gate f o s' = gate f o s := by
  rw [gate, gate, encodingRefusal, encodingRefusal, invalidOpcode, invalidOpcode, hmode, hcpu, hctl]

end Congruence

/-- An instruction that completes in one state completes in another where it passes the same checks, has the same
exceptions masked and reads the same elements. -/
theorem exec_next_congr {i : Instr} {s s' t : State} (h : exec i s = .next t)
    (hgate : gate (Instr.form i) (Instr.operands i) s' = gate (Instr.form i) (Instr.operands i) s)
    (him : s'.im = s.im) (hdm : s'.dm = s.dm)
    (hread : ∀ src, readSource (Instr.form i) (Instr.operands i) s = .ok src →
      ∃ src', readSource (Instr.form i) (Instr.operands i) s' = .ok src' ∧
        SameElements (Instr.form i) (Instr.operands i) s s' src src') :
    ∃ src src', t = commit (Instr.form i) (Instr.operands i) s src ∧
      exec i s' = .next (commit (Instr.form i) (Instr.operands i) s' src') ∧
      SameElements (Instr.form i) (Instr.operands i) s s' src src' := by
  obtain ⟨hg, src, hsrc, hmasked, ht⟩ := exec_next_iff.1 h
  obtain ⟨src', hsrc', hsame⟩ := hread src hsrc
  refine ⟨src, src', ht, exec_next_iff.2 ⟨hgate.trans hg, src', hsrc', ?_, rfl⟩, hsame⟩
  rwa [State.unmasked, him, hdm, hsame.signals_eq]

/-! ### The obligations -/

/-- Settles O50: of MXCSR the checks before the commit read IM and DM alone, and the lanes read none of it. -/
theorem otherMxcsrBitsPlayNoPart : Obligations.OtherMxcsrBitsPlayNoPart := by
  intro s t i m him hdm h
  obtain ⟨src, src', rfl, hexec, hsame⟩ :=
    exec_next_congr (s' := { s with mxcsr := m }) h (gate_congr rfl rfl rfl) him hdm
      fun src hsrc => ⟨src, readSource_ok_congr hsrc rfl rfl rfl rfl rfl rfl rfl rfl rfl rfl rfl,
        .of_forall_lt (fun _ _ => rfl) (fun _ _ => rfl)⟩
  refine ⟨_, hexec, ?_, commit_pc_eq rfl rfl⟩
  rw [commit_zmm, commit_zmm, hsame.packLanes_eq rfl rfl]
  rfl

/-- The mask bits that a form reads are there at either width of a mask (R23). -/
theorem readMask_getLsbD (s : State) (k : BitVec 3) {j : Nat} (hj : j < 16) :
    (s.readMask k).getLsbD j = (s.k[k.toNat]'k.isLt).getLsbD j := by
  have hj' : j < 64 := by omega
  unfold State.readMask
  cases s.cfg.kw <;> simp [hj, hj']

/-- Settles O53: no form has more than 16 lanes, so it reads no mask bit above 15. -/
theorem maskWidthChangesNoResult : Obligations.MaskWidthChangesNoResult := by
  intro s t i kw h
  have hsel : ∀ j, j < (Instr.form i).vl.lanes →
      (Instr.operands i).selects { s with cfg := { s.cfg with kw := kw } } j = (Instr.operands i).selects s j := by
    intro j hj
    have hj16 := hj.trans_le (VecLen.lanes_le _)
    rw [Operands.selects, Operands.selects, readMask_getLsbD _ _ hj16, readMask_getLsbD _ _ hj16]
  obtain ⟨src, src', rfl, hexec, hsame⟩ :=
    exec_next_congr (s' := { s with cfg := { s.cfg with kw := kw } }) h (gate_congr rfl rfl rfl) rfl rfl
      fun src hsrc => ⟨src, readSource_ok_congr hsrc rfl rfl rfl rfl rfl rfl rfl rfl rfl rfl rfl,
        .of_forall_lt hsel (fun _ _ => rfl)⟩
  rw [hexec]
  simp only [commit, hsame.signals_eq, hsame.packLanes_eq rfl rfl]
  rfl

/-- The elements of a form lie in the low `VL/2` bits of a register (R72). -/
theorem halfLane_eq_of_low_bits {vl : VecLen} {v w : VReg} (h : ∀ b, b < vl.bits / 2 → v.getLsbD b = w.getLsbD b)
    {j : Nat} (hj : j < vl.lanes) : halfLane v j = halfLane w j := by
  have hlanes : 16 * vl.lanes = vl.bits / 2 := by cases vl <;> rfl
  apply BitVec.eq_of_getLsbD_eq
  intro b hb
  rw [halfLane, halfLane, BitVec.getLsbD_extractLsb', BitVec.getLsbD_extractLsb', h _ (by omega)]

/-- Bits that a register has are read back as they were written. -/
theorem readVec_writeVec_low_bits {s : State} {r : BitVec 5} {v : VReg} {n : Nat}
    (h : ∀ b, b < n → v.getLsbD b = (s.readVec r).getLsbD b) {b : Nat} (hb : b < n) :
    ((s.writeVec r v).readVec r).getLsbD b = (s.readVec r).getLsbD b := by
  rw [readVec_writeVec_same, vecMask_getLsbD, h b hb, ← vecMask_getLsbD, State.readVec, vecMask_vecMask]

/-- Settles O51: every lane's element is below bit `VL/2`, and the destination's old value is another register's. -/
theorem upperSourceBitsAreNotRead : Obligations.UpperSourceBitsAreNotRead := by
  intro s t i r sae v f o hreg hne hlow h
  have hdst : (s.writeVec r v).readVec o.dst = s.readVec o.dst := readVec_writeVec_other s v hne.symm
  have hread : ∀ src, readSource f o s = .ok src →
      ∃ src', readSource f o (s.writeVec r v) = .ok src' ∧ SameElements f o s (s.writeVec r v) src src' := by
    intro src hsrc
    obtain rfl := Except.ok.inj ((readSource_reg hreg).symm.trans hsrc)
    exact ⟨_, readSource_reg hreg, .of_forall_lt (fun _ _ => rfl) fun j hj =>
      halfLane_eq_of_low_bits (fun b hb => readVec_writeVec_low_bits hlow hb) hj⟩
  obtain ⟨src, src', rfl, hexec, hsame⟩ :=
    exec_next_congr (s' := s.writeVec r v) h (gate_congr rfl rfl rfl) rfl rfl hread
  refine ⟨_, hexec, ?_, hsame.commit_mxcsr_eq rfl, commit_pc_eq rfl rfl⟩
  rw [commit_readVec_dst, commit_readVec_dst, hsame.packLanes_eq rfl hdst, writeVec_vecMask]

end Sys2Proof.Machine
end

section
/-! SUPPORT. Where a fault comes from (R161), and where `#AC(0)` does (R43, R157). -/

namespace Sys2Proof.Machine

/-! ### Where a fault comes from (R161) -/

/-- A form that faults: at the checks, at the operand read, or on an unmasked SIMD floating-point exception. -/
theorem convertForm_eq_fault {f : Form} {o : Operands} {s : State} {x : Fault} (h : convertForm f o s = .fault x) :
    gate f o s = some (.fault x) ∨ readSource f o s = .error (.fault x) ∨ x = s.simdFault f := by
  unfold convertForm at h
  split at h
  case h_1 st hg => cases st <;> simp_all [Stop.outcome]
  case h_2 =>
    split at h
    case h_1 st hr => cases st <;> simp_all [Stop.outcome]
    case h_2 =>
      split at h
      · exact .inr (.inr (by simpa using h.symm))
      · cases h

/-- The checks raise `#UD` and `#NM` alone. -/
theorem gate_fault {f : Form} {o : Operands} {s : State} {x : Fault} (h : gate f o s = some (.fault x)) :
    x = .ud ∨ x = .nm := by
  unfold gate at h
  repeat' split at h
  all_goals simp_all

theorem simdFault_ne_ac (s : State) (f : Form) : s.simdFault f ≠ .ac := by
  unfold State.simdFault
  split <;> simp

/-- Of the oracle's answers only that of `alignFault` is `#AC(0)`. -/
theorem alignFault_of_oracleFault_eq_ac {s : State} {f : Form} {a n : Nat} (h : oracleFault s f a n = some .ac) :
    alignFault s f a n = some .ac := by
  unfold oracleFault at h
  split at h
  · next y hseg =>
    obtain ⟨x, -, hx⟩ := List.exists_of_findSome?_eq_some hseg
    exact absurd (hx.trans h) (segFaultAt_ne_ac s f a n x)
  · split at h
    · next y hpage =>
      obtain ⟨x, -, hx⟩ := List.exists_of_findSome?_eq_some hpage
      exact absurd (hx.trans h) (pageFaultAt_ne_ac s f a n x)
    · exact h

/-- A source read that faults is a memory operand's, and the fault is the oracle's answer. -/
theorem readSource_fault {f : Form} {o : Operands} {s : State} {x : Fault} (h : readSource f o s = .error (.fault x)) :
    ∃ a b, o.src = .mem a b ∧ oracleFault s f (operandAddr f o s a b) (f.readBytes b) = some x := by
  cases hs : o.src with
  | reg r sae => rw [readSource_reg hs] at h; cases h
  | mem a b =>
    refine ⟨a, b, rfl, ?_⟩
    simp only [readSource, hs] at h
    repeat' split at h
    all_goals simp_all

/-- An instruction that raises `#AC(0)` has a memory operand, and the oracle may answer so there. -/
theorem alignFault_of_exec_eq_ac {i : Instr} {s : State} (h : exec i s = .fault .ac) :
    ∃ a b, (Instr.operands i).src = .mem a b ∧
      alignFault s (Instr.form i) (operandAddr (Instr.form i) (Instr.operands i) s a b)
        ((Instr.form i).readBytes b) = some .ac := by
  rw [exec_eq_convertForm] at h
  rcases convertForm_eq_fault h with hgate | hread | hsimd
  · rcases gate_fault hgate with hx | hx <;> cases hx
  · obtain ⟨a, b, hsrc, horacle⟩ := readSource_fault hread
    exact ⟨a, b, hsrc, alignFault_of_oracleFault_eq_ac horacle⟩
  · exact absurd hsimd.symm (simdFault_ne_ac s _)

theorem alignmentChecked_iff {s : State} :
    s.alignmentChecked = true ↔ s.ctl.cr0Am = true ∧ s.rflags.getLsbD 18 = true ∧ s.ctl.cpl = 3#2 := by
  simp [State.alignmentChecked, and_assoc]

/-- Settles O43: each disjunct denies one of the conditions under which `alignFault` answers. -/
theorem noAlignmentFaultWhereNotAllowed : Obligations.NoAlignmentFaultWhereNotAllowed := by
  intro s i hnot h
  obtain ⟨a, b, hsrc, hac⟩ := alignFault_of_exec_eq_ac h
  obtain ⟨-, henc, hevexAc, hchecked, hmisaligned, -⟩ := alignFault_eq_some.1 hac
  obtain ⟨ham, hflag, hcpl⟩ := alignmentChecked_iff.1 hchecked
  rcases hnot with hvex | hno | hno | hno | hno | haligned
  · cases henc.symm.trans hvex
  · cases hevexAc.symm.trans hno
  · cases ham.symm.trans hno
  · cases hflag.symm.trans hno
  · exact hno hcpl
  · exact hmisaligned (haligned a b hsrc)

end Sys2Proof.Machine
end

section
/-! SUPPORT. The bytes of the encoder (30_encoding.md R61 to R70), field by field, and the operands read back
from them. -/

namespace Sys2Proof

/-! ### The encoder's bytes, and the fields that the decoder reads in them -/

/-- The optional 67H (R62). -/
def prefix67 (p67 : Bool) : List Byte := if p67 then [0x67#8] else []

/-- The two bytes after C4H (R63), from the bits as stored. -/
def vexP0 (r x b : Bool) : Byte := BitVec.ofBool r ++ BitVec.ofBool x ++ BitVec.ofBool b ++ 2#5
def vexP1 (w : Bool) (vvvv : BitVec 4) (l : Bool) : Byte := BitVec.ofBool w ++ vvvv ++ BitVec.ofBool l ++ 1#2

/-- The three bytes after 62H (R65), from the bits as stored. -/
def evexP0 (r x b r' : Bool) (map : BitVec 3) : Byte :=
  BitVec.ofBool r ++ BitVec.ofBool x ++ BitVec.ofBool b ++ BitVec.ofBool r' ++ 0#1 ++ map
def evexP1 (w : Bool) (vvvv : BitVec 4) : Byte := BitVec.ofBool w ++ vvvv ++ 1#1 ++ 1#2
def evexP2 (z : Bool) (len : BitVec 2) (b vp : Bool) (aaa : BitVec 3) : Byte :=
  BitVec.ofBool z ++ len ++ BitVec.ofBool b ++ BitVec.ofBool vp ++ aaa

/-- What `encodeVex` writes after C4H. -/
def vexBody (l : Bool) (x : VexOps) : List Byte :=
  vexP0 (!x.dst.getLsbD 3) (!x.src.fields.x) (!x.src.fields.b) :: vexP1 x.w x.vvvv l :: 0x13#8 ::
    modrmByte x.src.fields (lowThree x.dst) :: x.src.fields.tail

/-- What `encodeEvex` writes after 62H. -/
def evexBody {σ : Type} (map : BitVec 3) (len : BitVec 2) (b : Bool) (f : RmFields) (x : EvexOps σ) : List Byte :=
  evexP0 (!x.dst.getLsbD 3) (!f.x) (!f.b) (!x.dst.getLsbD 4) map :: evexP1 x.w x.vvvv ::
    evexP2 x.z len b x.vp x.aaa :: 0x13#8 :: modrmByte f (lowThree x.dst) :: f.tail

theorem encodeVex_eq (l : Bool) (x : VexOps) : encodeVex l x = prefix67 x.p67 ++ 0xC4#8 :: vexBody l x := by
  simp only [encodeVex, List.append_assoc]
  rfl

theorem encodeEvex_eq {σ : Type} (map : BitVec 3) (len : BitVec 2) (b : Bool) (f : RmFields) (x : EvexOps σ) :
    encodeEvex map len b f x = prefix67 x.p67 ++ 0x62#8 :: evexBody map len b f x := by
  simp only [encodeEvex, List.append_assoc]
  rfl

section Fields
variable (r x b r' w l z vp : Bool) (vvvv : BitVec 4) (map aaa : BitVec 3) (len : BitVec 2)

@[simp] theorem vexP0_r : (vexP0 r x b)[7] = r := by
  simp only [← BitVec.getLsbD_eq_getElem, vexP0, BitVec.getLsbD_append]; simp
@[simp] theorem vexP0_x : (vexP0 r x b)[6] = x := by
  simp only [← BitVec.getLsbD_eq_getElem, vexP0, BitVec.getLsbD_append]; simp
@[simp] theorem vexP0_b : (vexP0 r x b)[5] = b := by
  simp only [← BitVec.getLsbD_eq_getElem, vexP0, BitVec.getLsbD_append]; simp
@[simp] theorem vexP0_map : (vexP0 r x b).extractLsb' 0 5 = 2#5 := by
  rw [vexP0, BitVec.extractLsb'_append_eq_of_add_le (by decide)]; rfl
theorem vexP0_top : (vexP0 r x b).extractLsb' 6 2 = BitVec.ofBool r ++ BitVec.ofBool x := by
  rw [vexP0, BitVec.extractLsb'_append_eq_of_le (by decide), BitVec.extractLsb'_append_eq_of_le (by decide)]
  exact BitVec.extractLsb'_eq_self

@[simp] theorem vexP1_w : (vexP1 w vvvv l)[7] = w := by
  simp only [← BitVec.getLsbD_eq_getElem, vexP1, BitVec.getLsbD_append]; simp
@[simp] theorem vexP1_l : (vexP1 w vvvv l)[2] = l := by
  simp only [← BitVec.getLsbD_eq_getElem, vexP1, BitVec.getLsbD_append]; simp
@[simp] theorem vexP1_vvvv : (vexP1 w vvvv l).extractLsb' 3 4 = vvvv := by
  rw [vexP1, BitVec.extractLsb'_append_eq_of_le (by decide), BitVec.extractLsb'_append_eq_of_le (by decide),
    BitVec.extractLsb'_append_eq_of_add_le (by decide)]
  exact BitVec.extractLsb'_eq_self
@[simp] theorem vexP1_pp : (vexP1 w vvvv l).extractLsb' 0 2 = 1#2 := by
  rw [vexP1, BitVec.extractLsb'_append_eq_of_add_le (by decide)]; rfl

@[simp] theorem evexP0_r : (evexP0 r x b r' map)[7] = r := by
  simp only [← BitVec.getLsbD_eq_getElem, evexP0, BitVec.getLsbD_append]; simp
@[simp] theorem evexP0_x : (evexP0 r x b r' map)[6] = x := by
  simp only [← BitVec.getLsbD_eq_getElem, evexP0, BitVec.getLsbD_append]; simp
@[simp] theorem evexP0_b : (evexP0 r x b r' map)[5] = b := by
  simp only [← BitVec.getLsbD_eq_getElem, evexP0, BitVec.getLsbD_append]; simp
@[simp] theorem evexP0_r' : (evexP0 r x b r' map)[4] = r' := by
  simp only [← BitVec.getLsbD_eq_getElem, evexP0, BitVec.getLsbD_append]; simp
@[simp] theorem evexP0_zero : (evexP0 r x b r' map)[3] = false := by
  simp only [← BitVec.getLsbD_eq_getElem, evexP0, BitVec.getLsbD_append]; simp
@[simp] theorem evexP0_map : (evexP0 r x b r' map).extractLsb' 0 3 = map := by
  rw [evexP0, BitVec.extractLsb'_append_eq_of_add_le (by decide)]
  exact BitVec.extractLsb'_eq_self
theorem evexP0_top : (evexP0 r x b r' map).extractLsb' 6 2 = BitVec.ofBool r ++ BitVec.ofBool x := by
  rw [evexP0, BitVec.extractLsb'_append_eq_of_le (by decide), BitVec.extractLsb'_append_eq_of_le (by decide),
    BitVec.extractLsb'_append_eq_of_le (by decide), BitVec.extractLsb'_append_eq_of_le (by decide)]
  exact BitVec.extractLsb'_eq_self

@[simp] theorem evexP1_w : (evexP1 w vvvv)[7] = w := by
  simp only [← BitVec.getLsbD_eq_getElem, evexP1, BitVec.getLsbD_append]; simp
@[simp] theorem evexP1_one : (evexP1 w vvvv)[2] = true := by
  simp only [← BitVec.getLsbD_eq_getElem, evexP1, BitVec.getLsbD_append]; simp
@[simp] theorem evexP1_vvvv : (evexP1 w vvvv).extractLsb' 3 4 = vvvv := by
  rw [evexP1, BitVec.extractLsb'_append_eq_of_le (by decide), BitVec.extractLsb'_append_eq_of_le (by decide),
    BitVec.extractLsb'_append_eq_of_add_le (by decide)]
  exact BitVec.extractLsb'_eq_self
@[simp] theorem evexP1_pp : (evexP1 w vvvv).extractLsb' 0 2 = 1#2 := by
  rw [evexP1, BitVec.extractLsb'_append_eq_of_add_le (by decide)]; rfl

@[simp] theorem evexP2_z : (evexP2 z len b vp aaa)[7] = z := by
  simp only [← BitVec.getLsbD_eq_getElem, evexP2, BitVec.getLsbD_append]; simp
@[simp] theorem evexP2_b : (evexP2 z len b vp aaa)[4] = b := by
  simp only [← BitVec.getLsbD_eq_getElem, evexP2, BitVec.getLsbD_append]; simp
@[simp] theorem evexP2_vp : (evexP2 z len b vp aaa)[3] = vp := by
  simp only [← BitVec.getLsbD_eq_getElem, evexP2, BitVec.getLsbD_append]; simp
@[simp] theorem evexP2_aaa : (evexP2 z len b vp aaa).extractLsb' 0 3 = aaa := by
  rw [evexP2, BitVec.extractLsb'_append_eq_of_add_le (by decide)]
  exact BitVec.extractLsb'_eq_self
@[simp] theorem evexP2_len : (evexP2 z len b vp aaa).extractLsb' 5 2 = len := by
  rw [evexP2, BitVec.extractLsb'_append_eq_of_le (by decide), BitVec.extractLsb'_append_eq_of_le (by decide),
    BitVec.extractLsb'_append_eq_of_le (by decide), BitVec.extractLsb'_append_eq_of_add_le (by decide)]
  exact BitVec.extractLsb'_eq_self

variable (f : RmFields) (reg index base : BitVec 3) (scale : BitVec 2)

@[simp] theorem modrmByte_mod : (modrmByte f reg).extractLsb' 6 2 = f.mod := by
  rw [modrmByte, BitVec.extractLsb'_append_eq_of_le (by decide), BitVec.extractLsb'_append_eq_of_le (by decide)]
  exact BitVec.extractLsb'_eq_self
@[simp] theorem modrmByte_reg : (modrmByte f reg).extractLsb' 3 3 = reg := by
  rw [modrmByte, BitVec.extractLsb'_append_eq_of_le (by decide), BitVec.extractLsb'_append_eq_of_add_le (by decide)]
  exact BitVec.extractLsb'_eq_self
@[simp] theorem modrmByte_rm : (modrmByte f reg).extractLsb' 0 3 = f.rm := by
  rw [modrmByte, BitVec.extractLsb'_append_eq_of_add_le (by decide)]
  exact BitVec.extractLsb'_eq_self

/-- The SIB byte is a ModRM byte of other fields (R68, R69). -/
theorem sibByte_eq_modrmByte :
    sibByte scale index base = modrmByte { mod := scale, rm := base, x := false, b := false, tail := [] } index := rfl

end Fields

/-! ### Register numbers from their parts (R71, R72) -/

@[simp] theorem ofBool_append_lowThree (r : BitVec 4) : BitVec.ofBool r[3] ++ lowThree r = r := by
  revert r
  decide

theorem ofBool_append_of_eq {r : BitVec 5} {v : BitVec 4} (h : v = BitVec.ofBool r[3] ++ lowThree r) :
    BitVec.ofBool r[4] ++ v = r := by
  subst h
  revert r
  decide

theorem zero_append_of_eq {r : BitVec 5} (h3 : r[3] = false) (h4 : r[4] = false) {v : BitVec 4}
    (h : v = 0#1 ++ lowThree r) : 0#1 ++ v = r := by
  simpa [h4] using ofBool_append_of_eq (r := r) (v := v) (by simpa [h3] using h)

theorem zero_append_lowThree {r : BitVec 4} (h : r[3] = false) : 0#1 ++ lowThree r = r := by
  simpa [h] using ofBool_append_lowThree r

theorem getLsbD_of_lt_eight {n : Nat} {r : BitVec n} {b : Nat} (h : r.toNat < 8) (hb : 3 ≤ b) :
    r.getLsbD b = false :=
  Nat.testBit_lt_two_pow (h.trans_le (Nat.pow_le_pow_right (n := 2) (by decide) hb))

/-! ### Memory operands (R68 to R70) -/

theorem takeD32_d32Bytes (v : BitVec 32) (tail : List Byte) : takeD32 (d32Bytes v ++ tail) = some (v, tail) := by
  have h : v.extractLsb' 24 8 ++ v.extractLsb' 16 8 ++ v.extractLsb' 8 8 ++ v.extractLsb' 0 8 = v := by
    rw [BitVec.extractLsb'_append_extractLsb'_eq_extractLsb' (rfl : 24 = 16 + 8),
      BitVec.extractLsb'_append_extractLsb'_eq_extractLsb' (rfl : 16 = 8 + 8),
      BitVec.extractLsb'_append_extractLsb'_eq_extractLsb' (rfl : 8 = 0 + 8)]
    exact BitVec.extractLsb'_eq_self
  exact congrArg (fun w => some (w, tail)) h

theorem takeDisp_bytes (d : Disp) (tail : List Byte) : takeDisp d.mod (d.bytes ++ tail) = some (d, tail) := by
  cases d with
  | absent => rfl
  | d8 v => rfl
  | d32 v => simp [takeDisp, Disp.mod, Disp.bytes, takeD32_d32Bytes]

theorem Disp.mod_eq_zero_iff (d : Disp) : d.mod = 0#2 ↔ d = .absent := by cases d <;> simp [Disp.mod]

theorem AddrForm.mod_ne_three (a : AddrForm) : a.fields.mod ≠ 3#2 := by
  cases a with
  | base _ d | sib _ _ _ d => cases d <;> simp [AddrForm.fields, Disp.mod]
  | disp32 _ | sibNoBase _ _ _ => simp [AddrForm.fields]

/-- The memory operand is read back from its fields. -/
theorem takeAddr_fields {a : AddrForm} (h : a.wf = true) (reg : BitVec 3) (tail : List Byte) :
    takeAddr a.fields.x a.fields.b (modrmByte a.fields reg) (a.fields.tail ++ tail) = some (a, tail) := by
  unfold takeAddr
  simp only [modrmByte_mod, modrmByte_rm]
  cases a with
  | base r d =>
    simp only [AddrForm.wf, Disp.okWithBase, Bool.and_eq_true, Bool.or_eq_true, bne_iff_ne] at h
    obtain ⟨hrm, hd⟩ := h
    have hnot : ¬ (lowThree r = 5#3 ∧ d.mod = 0#2) := by
      rintro ⟨h5, h0⟩
      exact hd.elim (fun h => h (d.mod_eq_zero_iff.1 h0)) (fun h => h h5)
    simp [AddrForm.fields, hrm, hnot, takeDisp_bytes]
  | disp32 v => simp [AddrForm.fields, takeD32_d32Bytes]
  | sib s i b d =>
    simp only [AddrForm.wf, Disp.okWithBase, Bool.or_eq_true, bne_iff_ne] at h
    have hnot : ¬ (lowThree b = 5#3 ∧ d.mod = 0#2) := by
      rintro ⟨h5, h0⟩
      exact h.elim (fun h => h (d.mod_eq_zero_iff.1 h0)) (fun h => h h5)
    simp [AddrForm.fields, sibByte_eq_modrmByte, hnot, takeDisp_bytes]
  | sibNoBase s i v => simp [AddrForm.fields, sibByte_eq_modrmByte, takeD32_d32Bytes]

end Sys2Proof
end

section
/-! SUPPORT. The decoder reads every instruction back from its encoding (R79). -/

namespace Sys2Proof

/-! ### Mode32 (R66): the stored R, X, B and R' of registers 0 to 7 are all 1 -/

theorem regFields_of_lt_eight {r : BitVec 5} (h : r.toNat < 8) : (regFields r).x = false ∧ (regFields r).b = false :=
  ⟨getLsbD_of_lt_eight h (by decide), getLsbD_of_lt_eight h (by decide)⟩

theorem AddrForm.fields_of_low8 {a : AddrForm} (h : a.low8 = true) : a.fields.x = false ∧ a.fields.b = false := by
  cases a with
  | base r d => exact ⟨rfl, getLsbD_of_lt_eight (of_decide_eq_true h) (by decide)⟩
  | disp32 v => exact ⟨rfl, rfl⟩
  | sib s i b d =>
    obtain ⟨hi, hb⟩ := Bool.and_eq_true_iff.1 h
    exact ⟨getLsbD_of_lt_eight (of_decide_eq_true hi) (by decide),
      getLsbD_of_lt_eight (of_decide_eq_true hb) (by decide)⟩
  | sibNoBase s i v => exact ⟨getLsbD_of_lt_eight (of_decide_eq_true h) (by decide), rfl⟩

theorem VexSrc.fields_of_low8 {x : VexSrc} (h : x.low8 = true) : x.fields.x = false ∧ x.fields.b = false := by
  cases x with
  | reg r =>
    refine regFields_of_lt_eight ?_
    rw [BitVec.toNat_setWidth_of_le (by decide)]
    exact of_decide_eq_true h
  | mem a => exact AddrForm.fields_of_low8 h

theorem EvexSrc.fields_of_low8 {x : EvexSrc} (h : x.low8 = true) : x.fields.x = false ∧ x.fields.b = false := by
  cases x with
  | reg r => exact regFields_of_lt_eight (of_decide_eq_true h)
  | mem a | memB a => exact AddrForm.fields_of_low8 h

theorem EvexSrc512.fields_of_low8 {x : EvexSrc512} (h : x.low8 = true) : x.fields.x = false ∧ x.fields.b = false := by
  cases x with
  | reg r | regSae r => exact regFields_of_lt_eight (of_decide_eq_true h)
  | mem a | memB a => exact AddrForm.fields_of_low8 h

/-! ### The decoder on the encoder's bytes -/

theorem decode_prefix67_vex {m : Mode} {p67 : Bool} (h : m = .mode32 → p67 = false) (pol : SaeLenPolicy)
    (bs : List Byte) : decode m pol (prefix67 p67 ++ 0xC4#8 :: bs) = decodeVex m p67 bs := by
  cases p67
  case false => cases m <;> rfl
  case true =>
    cases m
    case mode64 => rfl
    case mode32 => cases h rfl

theorem decode_prefix67_evex {m : Mode} {p67 : Bool} (h : m = .mode32 → p67 = false) (pol : SaeLenPolicy)
    (bs : List Byte) : decode m pol (prefix67 p67 ++ 0x62#8 :: bs) = decodeEvex m pol p67 bs := by
  cases p67
  case false => cases m <;> rfl
  case true =>
    cases m
    case mode64 => rfl
    case mode32 => cases h rfl

@[simp] theorem lowThree_setWidth (r : BitVec 4) : lowThree (r.setWidth 5) = lowThree r := by
  revert r
  decide

/-- In Mode32 the bits R, X and B of a VEX form, as stored, are 1. -/
def VexBits32 (m : Mode) (dst : BitVec 4) (f : RmFields) : Prop :=
  m = .mode32 → dst[3] = false ∧ f.x = false ∧ f.b = false

/-- In Mode32 the bits R, R', X and B of an EVEX form, as stored, are 1. -/
def EvexBits32 (m : Mode) (dst : BitVec 5) (f : RmFields) : Prop :=
  m = .mode32 → dst[3] = false ∧ dst[4] = false ∧ f.x = false ∧ f.b = false

section Vex
variable {m : Mode} {x : VexOps} (h32 : VexBits32 m x.dst x.src.fields) (l : Bool) (tail : List Byte)
include h32

theorem decodeVex_reg (hmod : x.src.fields.mod = 3#2) :
    decodeVex m x.p67 (vexBody l x ++ tail) =
      .instr (Machine.vexInstr l { x with src := .reg (BitVec.ofBool x.src.fields.b ++ x.src.fields.rm) })
        (x.src.fields.tail ++ tail) := by
  cases m with
  | mode64 => cases l <;> simp [vexBody, decodeVex, isOldInstruction, hmod, Machine.vexInstr]
  | mode32 =>
    obtain ⟨hr, hx, hb⟩ := h32 rfl
    cases l <;> simp [vexBody, decodeVex, isOldInstruction, vexP0_top, hmod, Machine.vexInstr, hr, hx, hb,
      zero_append_lowThree hr]

theorem decodeVex_mem {a : AddrForm} (hmod : x.src.fields.mod ≠ 3#2)
    (ha : takeAddr x.src.fields.x x.src.fields.b (modrmByte x.src.fields (lowThree x.dst)) (x.src.fields.tail ++ tail) =
      some (a, tail)) :
    decodeVex m x.p67 (vexBody l x ++ tail) = .instr (Machine.vexInstr l { x with src := .mem a }) tail := by
  cases m with
  | mode64 => cases l <;> simp [vexBody, decodeVex, isOldInstruction, hmod, ha, Machine.vexInstr]
  | mode32 =>
    obtain ⟨hr, hx, hb⟩ := h32 rfl
    rw [hx, hb] at ha
    cases l <;> simp [vexBody, decodeVex, isOldInstruction, vexP0_top, hmod, ha, Machine.vexInstr, hr, hx, hb,
      zero_append_lowThree hr]

end Vex

/-- The opcode map and the length of an EVEX row of 128 or 256 bits (R60, R73). -/
def mapBits (map6 : Bool) : BitVec 3 := if map6 then 6#3 else 2#3
def lenBits (l256 : Bool) : BitVec 2 := if l256 then 1#2 else 0#2

@[simp] theorem mapBits_eq_two (map6 : Bool) : mapBits map6 = 2#3 ↔ map6 = false := by cases map6 <;> decide
@[simp] theorem mapBits_eq_six (map6 : Bool) : mapBits map6 = 6#3 ↔ map6 = true := by cases map6 <;> decide
@[simp] theorem mapBits_beq_six (map6 : Bool) : (mapBits map6 == 6#3) = map6 := by cases map6 <;> rfl
@[simp] theorem lenBits_ne_two (l256 : Bool) : lenBits l256 ≠ 2#2 := by cases l256 <;> decide
@[simp] theorem lenBits_ne_three (l256 : Bool) : lenBits l256 ≠ 3#2 := by cases l256 <;> decide
@[simp] theorem lenBits_beq_one (l256 : Bool) : (lenBits l256 == 1#2) = l256 := by cases l256 <;> rfl

/-- The register that operand 2 names: `X ++ B ++ rm` (R72). -/
def RmFields.regNumber (f : RmFields) : BitVec 5 := BitVec.ofBool f.x ++ (BitVec.ofBool f.b ++ f.rm)

@[simp] theorem regFields_regNumber (r : BitVec 5) : (regFields r).regNumber = r := by
  revert r
  decide

@[simp] theorem regFields_tail (r : BitVec 5) : (regFields r).tail = [] := rfl

section Evex
variable {m : Mode} {x : EvexOps EvexSrc} {f : RmFields} (h32 : EvexBits32 m x.dst f) (pol : SaeLenPolicy)
  (map6 l256 : Bool) (tail : List Byte)
include h32

theorem decodeEvex_reg (hmod : f.mod = 3#2) :
    decodeEvex m pol x.p67 (evexBody (mapBits map6) (lenBits l256) false f x ++ tail) =
      .instr (evexRow map6 l256 { x with src := .reg f.regNumber }) (f.tail ++ tail) := by
  cases m with
  | mode64 => simp [evexBody, decodeEvex, isOldInstruction, hmod, ofBool_append_of_eq, RmFields.regNumber]
  | mode32 =>
    obtain ⟨hr, hr', hx, hb⟩ := h32 rfl
    simp [evexBody, decodeEvex, isOldInstruction, evexP0_top, hmod, hr, hr', hx, hb, zero_append_of_eq hr hr',
      RmFields.regNumber]

theorem decodeEvex_mem {a : AddrForm} (bBit : Bool) (hmod : f.mod ≠ 3#2)
    (ha : takeAddr f.x f.b (modrmByte f (lowThree x.dst)) (f.tail ++ tail) = some (a, tail)) :
    decodeEvex m pol x.p67 (evexBody (mapBits map6) (lenBits l256) bBit f x ++ tail) =
      .instr (evexRow map6 l256 { x with src := if bBit then .memB a else .mem a }) tail := by
  cases m with
  | mode64 => simp [evexBody, decodeEvex, isOldInstruction, hmod, ha, ofBool_append_of_eq]
  | mode32 =>
    obtain ⟨hr, hr', hx, hb⟩ := h32 rfl
    rw [hx, hb] at ha
    simp [evexBody, decodeEvex, isOldInstruction, evexP0_top, hmod, ha, hr, hr', hx, hb, zero_append_of_eq hr hr']

end Evex

section Evex512
variable {m : Mode} {x : EvexOps EvexSrc512} {f : RmFields} (h32 : EvexBits32 m x.dst f) (pol : SaeLenPolicy)
  (map6 bBit : Bool) (tail : List Byte)
include h32

theorem decodeEvex_reg512 (hmod : f.mod = 3#2) :
    decodeEvex m pol x.p67 (evexBody (mapBits map6) 2#2 bBit f x ++ tail) =
      .instr (evexRow512 map6 { x with src := if bBit then .regSae f.regNumber else .reg f.regNumber })
        (f.tail ++ tail) := by
  cases m with
  | mode64 =>
    cases bBit <;> simp [evexBody, decodeEvex, isOldInstruction, hmod, ofBool_append_of_eq, RmFields.regNumber]
  | mode32 =>
    obtain ⟨hr, hr', hx, hb⟩ := h32 rfl
    cases bBit <;> simp [evexBody, decodeEvex, isOldInstruction, evexP0_top, hmod, hr, hr', hx, hb,
      zero_append_of_eq hr hr', RmFields.regNumber]

theorem decodeEvex_mem512 {a : AddrForm} (hmod : f.mod ≠ 3#2)
    (ha : takeAddr f.x f.b (modrmByte f (lowThree x.dst)) (f.tail ++ tail) = some (a, tail)) :
    decodeEvex m pol x.p67 (evexBody (mapBits map6) 2#2 bBit f x ++ tail) =
      .instr (evexRow512 map6 { x with src := if bBit then .memB a else .mem a }) tail := by
  cases m with
  | mode64 => simp [evexBody, decodeEvex, isOldInstruction, hmod, ha, ofBool_append_of_eq]
  | mode32 =>
    obtain ⟨hr, hr', hx, hb⟩ := h32 rfl
    rw [hx, hb] at ha
    simp [evexBody, decodeEvex, isOldInstruction, evexP0_top, hmod, ha, hr, hr', hx, hb, zero_append_of_eq hr hr']

end Evex512

/-! ### Round trip: what follows the encoding is what is left -/

section RoundTrip
variable {m : Mode} (pol : SaeLenPolicy) (tail : List Byte)

theorem decodeVex_vexBody {x : VexOps} (hwf : x.src.wf = true) (h32 : VexBits32 m x.dst x.src.fields) (l : Bool) :
    decodeVex m x.p67 (vexBody l x ++ tail) = .instr (Machine.vexInstr l x) tail := by
  obtain ⟨p67, dst, w, vvvv, src⟩ := x
  cases src with
  | reg r => simpa [VexSrc.fields, regFields] using decodeVex_reg h32 l tail rfl
  | mem a => exact decodeVex_mem h32 l tail a.mod_ne_three (takeAddr_fields hwf _ tail)

theorem decodeEvex_evexBody {x : EvexOps EvexSrc} (hwf : x.src.wf = true) (h32 : EvexBits32 m x.dst x.src.fields)
    (map6 l256 : Bool) :
    decodeEvex m pol x.p67 (evexBody (mapBits map6) (lenBits l256) x.src.bBit x.src.fields x ++ tail) =
      .instr (evexRow map6 l256 x) tail := by
  obtain ⟨p67, dst, w, vvvv, z, vp, aaa, src⟩ := x
  cases src with
  | reg r => simpa [EvexSrc.fields, EvexSrc.bBit] using decodeEvex_reg h32 pol map6 l256 tail rfl
  | mem a => exact decodeEvex_mem h32 pol map6 l256 tail false a.mod_ne_three (takeAddr_fields hwf _ tail)
  | memB a => exact decodeEvex_mem h32 pol map6 l256 tail true a.mod_ne_three (takeAddr_fields hwf _ tail)

theorem decodeEvex_evexBody512 {x : EvexOps EvexSrc512} (hwf : x.src.wf = true)
    (h32 : EvexBits32 m x.dst x.src.fields) (map6 : Bool) :
    decodeEvex m pol x.p67 (evexBody (mapBits map6) 2#2 x.src.bBit x.src.fields x ++ tail) =
      .instr (evexRow512 map6 x) tail := by
  obtain ⟨p67, dst, w, vvvv, z, vp, aaa, src⟩ := x
  cases src with
  | reg r => simpa [EvexSrc512.fields, EvexSrc512.bBit] using decodeEvex_reg512 h32 pol map6 false tail rfl
  | regSae r => simpa [EvexSrc512.fields, EvexSrc512.bBit] using decodeEvex_reg512 h32 pol map6 true tail rfl
  | mem a => exact decodeEvex_mem512 h32 pol map6 false tail a.mod_ne_three (takeAddr_fields hwf _ tail)
  | memB a => exact decodeEvex_mem512 h32 pol map6 true tail a.mod_ne_three (takeAddr_fields hwf _ tail)

/-! An instruction that the mode admits (R62, R66): in Mode32 it has no 67H and names registers 0 to 7 only. -/

theorem vexBits32_of_low8 {x : VexOps} (h : m = .mode32 → (x.dst.toNat < 8 && x.src.low8) = true) :
    VexBits32 m x.dst x.src.fields := by
  intro hm
  obtain ⟨hdst, hsrc⟩ := Bool.and_eq_true_iff.1 (h hm)
  exact ⟨getLsbD_of_lt_eight (of_decide_eq_true hdst) (by decide), VexSrc.fields_of_low8 hsrc⟩

theorem evexBits32_of_lt_eight {dst : BitVec 5} {f : RmFields} (hdst : dst.toNat < 8)
    (hf : f.x = false ∧ f.b = false) : EvexBits32 m dst f :=
  fun _ => ⟨getLsbD_of_lt_eight hdst (by decide), getLsbD_of_lt_eight hdst (by decide), hf⟩

theorem decode_encodeVex {x : VexOps} (hwf : x.src.wf = true) (h67 : m = .mode32 → x.p67 = false)
    (hlow8 : m = .mode32 → (x.dst.toNat < 8 && x.src.low8) = true) (l : Bool) :
    decode m pol (encodeVex l x ++ tail) = .instr (Machine.vexInstr l x) tail := by
  rw [encodeVex_eq, List.append_assoc, List.cons_append, decode_prefix67_vex h67,
    decodeVex_vexBody tail hwf (vexBits32_of_low8 hlow8)]

theorem decode_encodeEvex {x : EvexOps EvexSrc} (hwf : x.src.wf = true) (h67 : m = .mode32 → x.p67 = false)
    (hlow8 : m = .mode32 → (x.dst.toNat < 8 && x.src.low8) = true) (map6 l256 : Bool) :
    decode m pol (encodeEvex (mapBits map6) (lenBits l256) x.src.bBit x.src.fields x ++ tail) =
      .instr (evexRow map6 l256 x) tail := by
  have h32 : EvexBits32 m x.dst x.src.fields := by
    intro hm
    obtain ⟨hdst, hsrc⟩ := Bool.and_eq_true_iff.1 (hlow8 hm)
    exact evexBits32_of_lt_eight (of_decide_eq_true hdst) (EvexSrc.fields_of_low8 hsrc) hm
  rw [encodeEvex_eq, List.append_assoc, List.cons_append, decode_prefix67_evex h67,
    decodeEvex_evexBody pol tail hwf h32]

theorem decode_encodeEvex512 {x : EvexOps EvexSrc512} (hwf : x.src.wf = true) (h67 : m = .mode32 → x.p67 = false)
    (hlow8 : m = .mode32 → (x.dst.toNat < 8 && x.src.low8) = true) (map6 : Bool) :
    decode m pol (encodeEvex (mapBits map6) 2#2 x.src.bBit x.src.fields x ++ tail) =
      .instr (evexRow512 map6 x) tail := by
  have h32 : EvexBits32 m x.dst x.src.fields := by
    intro hm
    obtain ⟨hdst, hsrc⟩ := Bool.and_eq_true_iff.1 (hlow8 hm)
    exact evexBits32_of_lt_eight (of_decide_eq_true hdst) (EvexSrc512.fields_of_low8 hsrc) hm
  rw [encodeEvex_eq, List.append_assoc, List.cons_append, decode_prefix67_evex h67,
    decodeEvex_evexBody512 pol tail hwf h32]

/-- Every instruction that the mode can spell is read back from its encoding, whatever bytes follow. -/
theorem decode_encode {i : Instr} (h : i.wfIn m = true) : decode m pol (encode i ++ tail) = .instr i tail := by
  obtain ⟨hwf, hm⟩ := Bool.and_eq_true_iff.1 h
  have h67 : m = .mode32 → i.p67 = false := by
    rintro rfl
    simpa using (Bool.and_eq_true_iff.1 hm).1
  have hlow8 : m = .mode32 → i.low8 = true := by
    rintro rfl
    exact (Bool.and_eq_true_iff.1 hm).2
  cases i with
  | vcvtph2psVex128 x => exact decode_encodeVex pol tail hwf h67 hlow8 false
  | vcvtph2psVex256 x => exact decode_encodeVex pol tail hwf h67 hlow8 true
  | vcvtph2psEvex128 x => exact decode_encodeEvex pol tail hwf h67 hlow8 false false
  | vcvtph2psEvex256 x => exact decode_encodeEvex pol tail hwf h67 hlow8 false true
  | vcvtph2psEvex512 x => exact decode_encodeEvex512 pol tail hwf h67 hlow8 false
  | vcvtph2psxEvex128 x => exact decode_encodeEvex pol tail hwf h67 hlow8 true false
  | vcvtph2psxEvex256 x => exact decode_encodeEvex pol tail hwf h67 hlow8 true true
  | vcvtph2psxEvex512 x => exact decode_encodeEvex512 pol tail hwf h67 hlow8 true

end RoundTrip

end Sys2Proof
end

section
/-! SUPPORT. The decoder's answer stands when more bytes follow (R83), and a step runs what memory
holds at `pc` (R28, R31). -/

namespace Sys2Proof

/-! ### A decoder that has answered does not look at the bytes after (R83) -/

/-- A reader that succeeds leaves the bytes after those it read. -/
def ReadsPrefix {α : Type} (read : List Byte → Option (α × List Byte)) : Prop :=
  ∀ ⦃bs v rest⦄ (tail : List Byte), read bs = some (v, rest) → read (bs ++ tail) = some (v, rest ++ tail)

theorem ReadsPrefix.map {α β : Type} {read : List Byte → Option (α × List Byte)} (h : ReadsPrefix read)
    (g : α → β) : ReadsPrefix fun bs => (read bs).map fun p => (g p.1, p.2) := by
  intro bs v rest tail hv
  obtain ⟨⟨w, rest'⟩, hw, he⟩ := Option.map_eq_some_iff.1 hv
  cases he
  simp only [h tail hw, Option.map_some]

theorem readsPrefix_takeD32 : ReadsPrefix takeD32 := by
  intro bs v rest tail h
  unfold takeD32 at h
  split at h
  · cases h; rfl
  · cases h

theorem readsPrefix_takeDisp (mod : BitVec 2) : ReadsPrefix (takeDisp mod) := by
  intro bs d rest tail h
  unfold takeDisp at h ⊢
  split at h
  · next h0 => cases h; rw [if_pos h0]
  · next h0 =>
    rw [if_neg h0]
    split at h
    · next h1 =>
      rw [if_pos h1]
      cases bs <;> cases h
      rfl
    · next h1 => rw [if_neg h1]; exact readsPrefix_takeD32.map _ tail h

theorem readsPrefix_takeAddr (x b : Bool) (modrm : Byte) : ReadsPrefix (takeAddr x b modrm) := by
  intro bs a rest tail h
  unfold takeAddr at h ⊢
  dsimp only at h ⊢
  split at h
  · next hsib =>
    rw [if_pos hsib]
    cases bs with
    | nil => cases h
    | cons sib bs =>
      dsimp only [List.cons_append] at h ⊢
      split at h
      · next hbase => rw [if_pos hbase]; exact readsPrefix_takeD32.map _ tail h
      · next hbase => rw [if_neg hbase]; exact (readsPrefix_takeDisp _).map _ tail h
  · next hsib =>
    rw [if_neg hsib]
    split at h
    · next hrip => rw [if_pos hrip]; exact readsPrefix_takeD32.map _ tail h
    · next hrip => rw [if_neg hrip]; exact (readsPrefix_takeDisp _).map _ tail h

/-- The answer with further bytes behind those it left. -/
def Decoded.withTail (tail : List Byte) : Decoded → Decoded
  | .instr i rest => .instr i (rest ++ tail)
  | .ud => .ud
  | .refused r => .refused r
  | .truncated => .truncated

/-- The answer `d` stands when the bytes go on with `tail`, where the answer is `d'`: unless `d` asked for more. -/
def Stands (tail : List Byte) (d d' : Decoded) : Prop := d ≠ .truncated → d' = d.withTail tail

section Stands
variable {tail : List Byte} {a a' b b' : Decoded}

theorem Stands.truncated : Stands tail .truncated a := fun h => absurd rfl h
theorem Stands.refused {r : EncodingRefusal} : Stands tail (.refused r) (.refused r) := fun _ => rfl
theorem Stands.ud : Stands tail .ud .ud := fun _ => rfl
theorem Stands.instr {i : Instr} {rest : List Byte} : Stands tail (.instr i rest) (.instr i (rest ++ tail)) :=
  fun _ => rfl

theorem Stands.ite {c : Prop} [Decidable c] (ha : Stands tail a a') (hb : Stands tail b b') :
    Stands tail (if c then a else b) (if c then a' else b') := by
  split
  · exact ha
  · exact hb

end Stands

/-- A decoder whose every answer stands. -/
def DecodesPrefix (dec : List Byte → Decoded) : Prop := ∀ bs tail, Stands tail (dec bs) (dec (bs ++ tail))

theorem decodesPrefix_afterUdPrefix (m : Mode) : DecodesPrefix (afterUdPrefix m) := by
  intro bs tail
  induction bs with
  | nil => exact .truncated
  | cons b bs ih =>
    refine .ite ih (.ite ?_ .refused)
    cases m with
    | mode64 => exact .ud
    | mode32 =>
      cases bs with
      | nil => exact .truncated
      | cons n bs => exact .ite .ud .refused

theorem decodeVex_of_isOld {m : Mode} {b1 : Byte} (h : isOldInstruction m b1 = true) (p67 : Bool) (bs : List Byte) :
    decodeVex m p67 (b1 :: bs) = .refused .notInScope := by
  match bs with
  | [] | [_] | [_, _] | _ :: _ :: _ :: _ => exact if_pos h

theorem decodeEvex_of_isOld {m : Mode} {p0 : Byte} (h : isOldInstruction m p0 = true) (pol : SaeLenPolicy) (p67 : Bool)
    (bs : List Byte) : decodeEvex m pol p67 (p0 :: bs) = .refused .notInScope := by
  match bs with
  | [] | [_] | [_, _] | [_, _, _] | _ :: _ :: _ :: _ :: _ => exact if_pos h

theorem decodesPrefix_decodeVex (m : Mode) (p67 : Bool) : DecodesPrefix (decodeVex m p67) := by
  intro bs tail
  match bs with
  | [] => exact .truncated
  | [b1] | [b1, _] | [b1, _, _] =>
    by_cases hold : isOldInstruction m b1 = true
    · rw [List.cons_append, decodeVex_of_isOld hold, decodeVex_of_isOld hold]
      exact .refused
    · exact fun hne => (hne (if_neg hold)).elim
  | b1 :: b2 :: op :: modrm :: rest =>
    refine .ite .refused (.ite .refused (.ite .refused (.ite .instr ?_)))
    split
    · exact .truncated
    · next a rest' ha =>
      rw [List.append_eq, readsPrefix_takeAddr _ _ _ tail ha]
      exact .instr

theorem decodesPrefix_decodeEvex (m : Mode) (pol : SaeLenPolicy) (p67 : Bool) :
    DecodesPrefix (decodeEvex m pol p67) := by
  intro bs tail
  match bs with
  | [] => exact .truncated
  | [p0] | [p0, _] | [p0, _, _] | [p0, _, _, _] =>
    by_cases hold : isOldInstruction m p0 = true
    · rw [List.cons_append, decodeEvex_of_isOld hold, decodeEvex_of_isOld hold]
      exact .refused
    · exact fun hne => (hne (if_neg hold)).elim
  | p0 :: p1 :: p2 :: op :: modrm :: rest =>
    refine .ite .refused (.ite .refused (.ite .refused (.ite .refused (.ite .refused (.ite .refused
      (.ite ?reg ?mem))))))
    case reg => exact .ite .instr (.ite .instr .instr)
    case mem =>
      split
      · exact .truncated
      · next a rest' ha =>
        rw [List.append_eq, readsPrefix_takeAddr _ _ _ tail ha]
        exact .ite .instr .instr

theorem decodesPrefix_decodeBody (m : Mode) (pol : SaeLenPolicy) (p67 : Bool) :
    DecodesPrefix (decodeBody m pol p67) := by
  intro bs tail
  cases bs with
  | nil => exact .truncated
  | cons b bs =>
    exact .ite .refused (.ite (decodesPrefix_afterUdPrefix m bs tail) (.ite (decodesPrefix_decodeVex m p67 bs tail)
      (.ite (decodesPrefix_decodeEvex m pol p67 bs tail) .refused)))

theorem decodesPrefix_decode (m : Mode) (pol : SaeLenPolicy) : DecodesPrefix (decode m pol) := by
  intro bs tail
  cases bs with
  | nil => exact .truncated
  | cons b bs =>
    refine .ite ?_ (decodesPrefix_decodeBody m pol false (b :: bs) tail)
    cases m with
    | mode64 => exact decodesPrefix_decodeBody .mode64 pol true bs tail
    | mode32 => exact .refused

/-- The decoder asks for more on every part of an encoding that is cut off. -/
theorem decode_take_encode {m : Mode} {i : Instr} (h : i.wfIn m = true) (pol : SaeLenPolicy) {n : Nat}
    (hn : n < (encode i).length) : decode m pol ((encode i).take n) = .truncated := by
  by_contra hne
  have hstands := decodesPrefix_decode m pol _ ((encode i).drop n) hne
  have hwhole := decode_encode pol [] h
  rw [List.append_nil] at hwhole
  rw [List.take_append_drop, hwhole] at hstands
  have hdrop : (encode i).drop n ≠ [] := by simpa using hn
  cases hd : decode m pol ((encode i).take n) with
  | instr i' rest =>
    simp only [hd, Decoded.withTail, Decoded.instr.injEq] at hstands
    exact hdrop (List.append_eq_nil_iff.1 hstands.2.symm).2
  | truncated => exact hne hd
  | ud | refused r => simp [hd, Decoded.withTail] at hstands

namespace Machine

/-! ### The fetch (R28, R31; log 16) -/

/-- Where memory holds the bytes `bs`, below the top, a fetch gives them and goes on behind them. -/
theorem fetchBytes_eq_append {mem : List Host.Cell} {top n a : Nat} {bs : List Byte} (hn : bs.length ≤ n)
    (htop : a + bs.length ≤ top) (h : ∀ j (hj : j < bs.length), Memory.read mem (a + j) = some bs[j]) :
    fetchBytes mem top n a = bs ++ fetchBytes mem top (n - bs.length) (a + bs.length) := by
  induction bs generalizing n a with
  | nil => rfl
  | cons b bs ih =>
    cases n with
    | zero => exact absurd hn (Nat.not_succ_le_zero _)
    | succ n =>
      simp only [List.length_cons] at hn htop
      have hhead : Memory.read mem a = some b := h 0 (Nat.succ_pos _)
      have htail := ih (n := n) (a := a + 1) (by omega) (by omega) fun j hj => by
        rw [Nat.add_assoc, Nat.add_comm 1]
        exact h (j + 1) (Nat.succ_lt_succ hj)
      rw [fetchBytes, if_pos (by omega), hhead]
      simp only [htail, List.length_cons, List.cons_append, Nat.add_sub_add_right, Nat.add_assoc, Nat.add_comm 1]

theorem fetchBytes_of_top_le (mem : List Host.Cell) {top a : Nat} (h : top ≤ a) (n : Nat) :
    fetchBytes mem top n a = [] := by
  cases n with
  | zero => rfl
  | succ n => rw [fetchBytes, if_neg (Nat.not_lt.2 h)]

/-- Every encoding fits what a fetch reads (R83). -/
theorem encode_length_le (i : Instr) : (encode i).length ≤ fetchLimit := by
  have h : Laws.EncodeLength.Statement i := by
    cases i with
    | vcvtph2psVex128 x => exact Laws.EncodeLength.vcvtph2psVex128 x
    | vcvtph2psVex256 x => exact Laws.EncodeLength.vcvtph2psVex256 x
    | vcvtph2psEvex128 x => exact Laws.EncodeLength.vcvtph2psEvex128 x
    | vcvtph2psEvex256 x => exact Laws.EncodeLength.vcvtph2psEvex256 x
    | vcvtph2psEvex512 x => exact Laws.EncodeLength.vcvtph2psEvex512 x
    | vcvtph2psxEvex128 x => exact Laws.EncodeLength.vcvtph2psxEvex128 x
    | vcvtph2psxEvex256 x => exact Laws.EncodeLength.vcvtph2psxEvex256 x
    | vcvtph2psxEvex512 x => exact Laws.EncodeLength.vcvtph2psxEvex512 x
  obtain ⟨hlen, -, hle⟩ := h
  rw [hlen]
  exact hle.trans (by decide)

/-- Settles O12: the fetch gives the encoding and some bytes behind it, and the decoder reads the instruction back. -/
theorem stepRunsTheEncodedInstruction : Obligations.StepRunsTheEncodedInstruction := by
  intro s i hwf htop hmem
  have hfetch := fetchBytes_eq_append (encode_length_le i) htop hmem
  exact stepRunsTheDecodedInstruction s i _ (by rw [State.fetch, hfetch, decode_encode _ _ hwf])

/-- Settles O13: the fetch gives the encoding up to the top, and the decoder asks for more. -/
theorem fetchPastTheTopIsRefused : Obligations.FetchPastTheTopIsRefused := by
  intro s i hwf hpc hcut hmem
  have hlimit := encode_length_le i
  have hlen : ((encode i).take (s.top - s.pc.toNat)).length = s.top - s.pc.toNat := by
    rw [List.length_take]
    omega
  have hfetch : s.fetch = (encode i).take (s.top - s.pc.toNat) := by
    have h := fetchBytes_eq_append (mem := s.mem) (top := s.top) (n := fetchLimit) (a := s.pc.toNat)
      (bs := (encode i).take (s.top - s.pc.toNat)) (by omega) (by omega) fun j hj => by
        rw [List.getElem_take]
        exact hmem j (by omega) (by omega)
    rw [State.fetch, h, fetchBytes_of_top_le _ (by omega), List.append_nil]
  have hdecode : decode s.cfg.mode s.cfg.saeLenPolicy s.fetch = .truncated := by
    rw [hfetch]
    exact decode_take_encode hwf _ (by omega)
  have hshort : s.shortFetch = .fetchPastTop := by
    rw [State.shortFetch, hfetch, hlen, if_neg (by omega), if_neg (by omega)]
  rw [step, hdecode]
  exact congrArg _ hshort

end Machine
end Sys2Proof
end

section
/-! SUPPORT. A memory operand (20_memory.md): what stops an instruction at its operand read (R41, R45, R47), and the
order of the oracle's answers (R155 to R157, R161). -/

namespace Sys2Proof.Machine

/-! ### The first answer among the bytes of a read -/

/-- The first byte of a read that has an answer gives it. -/
theorem findSome?_range'_eq_some {β : Type} {g : Nat → Option β} {a n x : Nat} {v : β} (hax : a ≤ x)
    (hxn : x < a + n) (hbelow : ∀ y, a ≤ y → y < x → g y = none) (hx : g x = some v) :
    (List.range' a n).findSome? g = some v := by
  have hsplit : List.range' a n = List.range' a (x - a) ++ x :: List.range' (x + 1) (a + n - x - 1) := by
    rw [← List.range'_succ, show n = (x - a) + (a + n - x - 1 + 1) by omega, ← List.range'_append_1,
      show a + (x - a) = x by omega]
    congr 2
    omega
  rw [hsplit]
  refine List.findSome?_eq_some_iff.2 ⟨_, x, _, rfl, hx, fun y hy => ?_⟩
  have := List.mem_range'_1.1 hy
  exact hbelow y this.1 (by omega)

theorem findSome?_range'_eq_none {β : Type} {g : Nat → Option β} {a n : Nat}
    (h : ∀ y, a ≤ y → y < a + n → g y = none) : (List.range' a n).findSome? g = none := by
  simpa only [List.findSome?_eq_none_iff, List.mem_range'_1, and_imp] using h

/-! ### The oracle's fault, by the order of R161 -/

section Oracle
variable {s : State} {f : Form} {a n x : Nat} {y : Fault}

/-- A segment fault comes first, at its first byte (R155). -/
theorem oracleFault_of_segFaultAt (hax : a ≤ x) (hxn : x < a + n)
    (hbelow : ∀ z, a ≤ z → z < x → segFaultAt s f a n z = none) (hx : segFaultAt s f a n x = some y) :
    oracleFault s f a n = some y := by
  rw [oracleFault, findSome?_range'_eq_some hax hxn hbelow hx]

/-- Without one, a page fault comes at the first byte refused (R156). -/
theorem oracleFault_of_pageFaultAt (hseg : ∀ z, a ≤ z → z < a + n → segFaultAt s f a n z = none) (hax : a ≤ x)
    (hxn : x < a + n) (hbelow : ∀ z, a ≤ z → z < x → pageFaultAt s f a n z = none)
    (hx : pageFaultAt s f a n x = some y) : oracleFault s f a n = some y := by
  rw [oracleFault, findSome?_range'_eq_none hseg, findSome?_range'_eq_some hax hxn hbelow hx]

/-- Where nothing is refused, only `#AC(0)` is left (R157). -/
theorem oracleFault_eq_alignFault
    (h : ∀ z, a ≤ z → z < a + n →
      (denialAt s f a n z = none ∨ denialAt s f a n z = some .ac) ∧ (Memory.read s.mem z).isSome = true) :
    oracleFault s f a n = alignFault s f a n := by
  have hdenial : ∀ z, a ≤ z → z < a + n → denialAt s f a n z ≠ some .ss ∧ denialAt s f a n z ≠ some .gp := by
    intro z haz hzn
    obtain ⟨hnone | hac, -⟩ := h z haz hzn <;> simp_all
  rw [oracleFault, findSome?_range'_eq_none fun z haz hzn => segFaultAt_eq_none_iff.2 (hdenial z haz hzn),
    findSome?_range'_eq_none fun z haz hzn => (pageFaultAt_eq_none_iff (hdenial z haz hzn)).2 (h z haz hzn)]

/-- A byte that the oracle does not deny raises a page fault exactly if it is not mapped (log 1). -/
theorem pageFaultAt_of_unmapped (hd : denialAt s f a n x = none) (hm : Memory.read s.mem x = none) :
    pageFaultAt s f a n x = some (.pf (Config.unmappedFaultCode s f a n) (BitVec.ofNat 64 x)) := by
  simp [pageFaultAt, hd, hm]

theorem acAnswered_iff : acAnswered s f a n = true ↔ ∃ x, a ≤ x ∧ x < a + n ∧ denialAt s f a n x = some .ac := by
  simp [acAnswered, List.mem_range'_1, and_assoc]

end Oracle

/-! ### What stops a legal instruction at its operand read (R161 step 3) -/

section OperandRead
variable {i : Instr} {s : State} {a : AddrForm} {b : Bool}

theorem exec_of_readSource_error {st : Stop} (hl : Legal i s) (he : Enabled (Instr.form i) s)
    (h : readSource (Instr.form i) (Instr.operands i) s = .error st) : exec i s = st.outcome := by
  rw [exec_eq_convertForm, convertForm, gate_eq_none hl he]
  simp only [h]

theorem readSource_of_top_lt {f : Form} {o : Operands} (hsrc : o.src = .mem a b)
    (h : s.top < operandAddr f o s a b + f.readBytes b) :
    readSource f o s = .error (.refused .operandPastTop) := by
  simp [readSource, hsrc, h]

theorem readSource_of_oracleFault {f : Form} {o : Operands} {y : Fault} (hsrc : o.src = .mem a b)
    (htop : operandAddr f o s a b + f.readBytes b ≤ s.top)
    (h : oracleFault s f (operandAddr f o s a b) (f.readBytes b) = some y) :
    readSource f o s = .error (.fault y) := by
  simp [readSource, hsrc, htop, h]

/-- The oracle's fault on the operand is the instruction's. -/
theorem exec_of_oracleFault {y : Fault} (hl : Legal i s) (he : Enabled (Instr.form i) s)
    (hsrc : (Instr.operands i).src = .mem a b)
    (htop : operandAddr (Instr.form i) (Instr.operands i) s a b + (Instr.form i).readBytes b ≤ s.top)
    (h : oracleFault s (Instr.form i) (operandAddr (Instr.form i) (Instr.operands i) s a b)
      ((Instr.form i).readBytes b) = some y) : exec i s = .fault y :=
  exec_of_readSource_error hl he (readSource_of_oracleFault hsrc htop h)

end OperandRead

/-! ### The obligations -/

/-- Settles O39: the read asks for the top before it asks the oracle. -/
theorem operandPastTheTopIsRefused : Obligations.OperandPastTheTopIsRefused := by
  intro s i a b f o hl he hsrc htop
  exact exec_of_readSource_error hl he (readSource_of_top_lt hsrc htop)

/-- Settles O40: no byte is denied, so the first unmapped one decides, and the mask is not asked. -/
theorem unmappedOperandRaisesPageFault : Obligations.UnmappedOperandRaisesPageFault := by
  intro s i a b n f o addr size hl he hsrc htop hn hdenial hmapped hunmapped
  have hseg : ∀ x, addr ≤ x → x < addr + size → segFaultAt s f addr size x = none := fun x hax hxn =>
    segFaultAt_eq_none_iff.2 (by simp [hdenial x hax hxn])
  have hbelow : ∀ x, addr ≤ x → x < addr + n → pageFaultAt s f addr size x = none := fun x hax hxn =>
    have hnone := hdenial x hax (by omega)
    (pageFaultAt_eq_none_iff (by simp [hnone])).2 ⟨.inl hnone, hmapped x hax hxn⟩
  have hfirst := pageFaultAt_of_unmapped (hdenial (addr + n) (by omega) (by omega)) hunmapped
  exact ⟨_, exec_of_oracleFault hl he hsrc htop
    (oracleFault_of_pageFaultAt hseg (Nat.le_add_right addr n) (Nat.add_lt_add_left hn addr) hbelow hfirst), rfl⟩

/-- Settles O41: the first byte with a segment fault decides, whatever the page faults below it are. -/
theorem segmentFaultsComeBeforePageFaults : Obligations.SegmentFaultsComeBeforePageFaults := by
  intro s i a b x d f o addr answer hl he hsrc htop hax hxn hanswer hd hbelow
  have hfirst : segFaultAt s f addr (f.readBytes b) x = some (if d = .ss then .ss else .gp) := by
    rcases hd with rfl | rfl <;> simp only [segFaultAt, answer] at hanswer ⊢ <;> rw [hanswer] <;> rfl
  exact exec_of_oracleFault hl he hsrc htop (oracleFault_of_segFaultAt hax hxn
    (fun y hay hyx => segFaultAt_eq_none_iff.2 (hbelow y hay hyx)) hfirst)

/-- Settles O44: on a readable operand only `alignFault` can fault, and here it asks the oracle alone. -/
theorem misalignedEvexOperandTakesTheOraclesAnswer : Obligations.MisalignedEvexOperandTakesTheOraclesAnswer := by
  intro s i a b f o addr n hl he henc hsrc hread hevexAc hchecked hmisaligned
  rw [← acAnswered_iff]
  constructor
  · intro h
    obtain ⟨a', b', hsrc', hac⟩ := alignFault_of_exec_eq_ac h
    obtain ⟨rfl, rfl⟩ := Source.mem.inj (hsrc.symm.trans hsrc')
    obtain ⟨-, -, -, -, -, hanswered⟩ := alignFault_eq_some.1 hac
    exact hanswered
  · intro h
    have hac : alignFault s f addr n = some .ac :=
      alignFault_eq_some.2 ⟨rfl, henc, hevexAc, hchecked, hmisaligned, h⟩
    exact exec_of_oracleFault hl he hsrc hread.1 ((oracleFault_eq_alignFault hread.2).trans hac)

end Sys2Proof.Machine
end

section
/-! SUPPORT. The oracle as the model holds it (R41, log 3): a list of answers that changes one read of one turn alone. -/

namespace Sys2Proof.Machine

/-- The key of a byte of one read: the turn, the form, the address and the size, whatever the byte. -/
def ReadKey.isOfRead (q : ReadKey) (turn : Nat) (f : Form) (a n : Nat) : Bool :=
  q.turn == turn && q.form == f && q.addr == a && q.size == n

/-- The oracle's answers to every other read. -/
def State.deniedElsewhere (s : State) (f : Form) (a n : Nat) : List (ReadKey × MemFault) :=
  s.denied.filter fun d => !d.1.isOfRead s.turn f a n

/-- The oracle's answers of a state, but for one read: to that it answers `m` at its first byte, and nothing else. -/
def State.deniedWith (s : State) (f : Form) (a n : Nat) : Option MemFault → List (ReadKey × MemFault)
  | none => s.deniedElsewhere f a n
  | some d => ({ turn := s.turn, form := f, addr := a, size := n, byte := a }, d) :: s.deniedElsewhere f a n

section DeniedWith
variable {s : State} {f : Form} {a n : Nat} {m : Option MemFault} {q : ReadKey}

theorem find?_deniedElsewhere_of_isOfRead (hq : q.isOfRead s.turn f a n = true) :
    ((s.deniedElsewhere f a n).find? fun d => d.1 == q) = none := by
  simp only [State.deniedElsewhere, List.find?_eq_none, List.mem_filter]
  rintro d ⟨-, hd⟩ he
  simp [beq_iff_eq.1 he, hq] at hd

theorem find?_deniedElsewhere_of_not_isOfRead (hq : q.isOfRead s.turn f a n = false) :
    ((s.deniedElsewhere f a n).find? fun d => d.1 == q) = s.denied.find? fun d => d.1 == q := by
  rw [State.deniedElsewhere, List.find?_filter]
  congr 1
  funext d
  by_cases hd : d.1 = q
  · simp [hd, hq]
  · simp [hd]

/-- The keys of other reads keep their answers. -/
theorem find?_deniedWith_of_not_isOfRead (hq : q.isOfRead s.turn f a n = false) :
    ((s.deniedWith f a n m).find? fun d => d.1 == q) = s.denied.find? fun d => d.1 == q := by
  cases m with
  | none => exact find?_deniedElsewhere_of_not_isOfRead hq
  | some d =>
    rw [State.deniedWith, List.find?_cons_of_neg, find?_deniedElsewhere_of_not_isOfRead hq]
    rw [beq_iff_eq]
    rintro rfl
    simp [ReadKey.isOfRead] at hq

/-- The read itself is answered `m` at its first byte. -/
theorem denialAt_deniedWith_same (x : Nat) :
    denialAt { s with denied := s.deniedWith f a n m } f a n x = if x = a then m else none := by
  have hnone := find?_deniedElsewhere_of_isOfRead (s := s) (f := f) (a := a) (n := n)
    (q := { turn := s.turn, form := f, addr := a, size := n, byte := x }) (by simp [ReadKey.isOfRead])
  cases m with
  | none => simp [denialAt, State.deniedWith, hnone]
  | some d =>
    by_cases hx : x = a
    · subst hx
      rw [denialAt, State.deniedWith, List.find?_cons_of_pos (by simp), if_pos rfl]
      rfl
    · rw [denialAt, State.deniedWith, List.find?_cons_of_neg (by simpa using Ne.symm hx), hnone, if_neg hx]
      rfl

/-- Every other form, address or size of a read keeps its answers. -/
theorem denialAt_deniedWith_of_other_read {g : Form} {b k : Nat} (h : g ≠ f ∨ b ≠ a ∨ k ≠ n) (x : Nat) :
    denialAt { s with denied := s.deniedWith f a n m } g b k x = denialAt s g b k x := by
  have hq : ({ turn := s.turn, form := g, addr := b, size := k, byte := x } : ReadKey).isOfRead s.turn f a n =
      false := by
    rcases h with h | h | h <;> simp [ReadKey.isOfRead, h]
  exact congrArg (Option.map Prod.snd) (find?_deniedWith_of_not_isOfRead hq)

/-- Every other turn of the run keeps its answers. -/
theorem denialAt_deniedWith_of_other_turn {u : Nat} (hu : u ≠ s.turn) (g : Form) (b k x : Nat) :
    denialAt { s with denied := s.deniedWith f a n m, turn := u } g b k x =
      denialAt { s with turn := u } g b k x := by
  have hq : ({ turn := u, form := g, addr := b, size := k, byte := x } : ReadKey).isOfRead s.turn f a n = false := by
    simp [ReadKey.isOfRead, hu]
  exact congrArg (Option.map Prod.snd) (find?_deniedWith_of_not_isOfRead hq)

/-- What the read's first byte is answered. -/
theorem denialAt_deniedWith_first :
    denialAt { s with denied := s.deniedWith f a n m } f a n a = m := by
  rw [denialAt_deniedWith_same, if_pos rfl]

/-- A page fault at the first byte is the read's answer, with that byte's address. -/
theorem oracleFault_deniedWith_pf (hn : 0 < n) (code : BitVec 32) :
    oracleFault { s with denied := s.deniedWith f a n (some (.pf code)) } f a n =
      some (.pf code (BitVec.ofNat 64 a)) :=
  oracleFault_of_pageFaultAt
    (fun x _ _ => segFaultAt_eq_none_iff.2 (by rw [denialAt_deniedWith_same]; split <;> simp))
    le_rfl (by omega) (by omega) (by rw [pageFaultAt, denialAt_deniedWith_first])

/-- Where the bytes are mapped and no segment or page fault is answered, alignment decides. -/
theorem oracleFault_deniedWith_of_mapped (hm : m = none ∨ m = some .ac)
    (hmapped : ∀ x, a ≤ x → x < a + n → (Memory.read s.mem x).isSome = true) :
    oracleFault { s with denied := s.deniedWith f a n m } f a n =
      alignFault { s with denied := s.deniedWith f a n m } f a n := by
  refine oracleFault_eq_alignFault fun x hax hxn => ⟨?_, hmapped x hax hxn⟩
  rw [denialAt_deniedWith_same]
  split
  · exact hm
  · exact .inl rfl

end DeniedWith

/-- Settles O42: the answers of the state, with this read's put in place of those it had. -/
theorem oracleMayAnswerEachReadItsOwnWay : Obligations.OracleMayAnswerEachReadItsOwnWay := by
  intro s f a n m hn hmapped hac
  refine ⟨s.deniedWith f a n m, ?answer, fun g b k x h => denialAt_deniedWith_of_other_read h x,
    fun u g b k x hu => denialAt_deniedWith_of_other_turn hu g b k x⟩
  match m with
  | none =>
    refine (oracleFault_deniedWith_of_mapped (.inl rfl) (hmapped (.inl rfl))).trans ?_
    refine alignFault_eq_none_iff.2 (.inr (.inr (.inr (.inr ?_))))
    rw [← Bool.not_eq_true, acAnswered_iff]
    simp [denialAt_deniedWith_same]
  | some .ss =>
    exact oracleFault_of_segFaultAt le_rfl (by omega) (by omega) (by rw [segFaultAt, denialAt_deniedWith_first])
  | some .gp =>
    exact oracleFault_of_segFaultAt le_rfl (by omega) (by omega) (by rw [segFaultAt, denialAt_deniedWith_first])
  | some (.pf code) => exact oracleFault_deniedWith_pf hn code
  | some .ac =>
    obtain ⟨henc, hevexAc, hchecked, hmisaligned⟩ := hac rfl
    refine (oracleFault_deniedWith_of_mapped (.inr rfl) (hmapped (.inr rfl))).trans ?_
    exact alignFault_eq_some.2 ⟨rfl, henc, hevexAc, hchecked, hmisaligned,
      acAnswered_iff.2 ⟨a, le_rfl, by omega, denialAt_deniedWith_first⟩⟩

end Sys2Proof.Machine
end

section
/-! SUPPORT. Completion from memory (R40 to R42, R47, R120, R121, R133, R143, R144): a legal instruction of an enabled
form, its operand read and what it signals masked. -/

namespace Sys2Proof.Machine

/-! ### The operands of the claims' instructions -/

theorem operands_vexInstr (l256 : Bool) (x : VexOps) : Instr.operands (vexInstr l256 x) = VexOps.operands x := by
  cases l256 <;> rfl

theorem operands512_widenOps (x : EvexOps EvexSrc) : EvexOps.operands512 (widenOps x) = EvexOps.operands x := by
  obtain ⟨p67, dst, w, vvvv, z, vp, aaa, src⟩ := x
  cases src <;> rfl

theorem operands_psInstr (vl : VecLen) (x : EvexOps EvexSrc) : Instr.operands (psInstr vl x) = EvexOps.operands x := by
  cases vl with
  | v128 | v256 => rfl
  | v512 => exact operands512_widenOps x

theorem operands_psxInstr (vl : VecLen) (x : EvexOps EvexSrc) :
    Instr.operands (psxInstr vl x) = EvexOps.operands x := by
  cases vl with
  | v128 | v256 => rfl
  | v512 => exact operands512_widenOps x

theorem operands_evexInstr (psx : Bool) (vl : VecLen) (x : EvexOps EvexSrc) :
    Instr.operands (evexInstr psx vl x) = EvexOps.operands x := by
  cases psx
  · exact operands_psInstr vl x
  · exact operands_psxInstr vl x

/-- The bytes of a memory source that is not a broadcast (R42). -/
theorem VecLen.srcBytes_eq (vl : VecLen) : vl.srcBytes = vl.bits / 16 := by cases vl <;> rfl

/-! ### Without a mask every lane is selected (R24, R74) -/

theorem laneSelected_zero (s : State) : laneSelected s 0#3 = fun _ => true := by
  funext j
  simp [laneSelected]

theorem resultLane_of_aaa_eq_zero {o : Operands} (h : o.aaa = 0#3) (s : State) (src : Nat → Half) :
    resultLane o s src = fun j => (cvtH2s s.cfg (src j)).r := by
  funext j
  simp [resultLane, Operands.selects, h]

/-! ### Completion -/

theorem sae_of_mem {o : Operands} {a : AddrForm} {b : Bool} (h : o.src = .mem a b) : o.sae = false := by
  simp [Operands.sae, h]

/-- Nothing signalled is unmasked, in the terms of claims. -/
theorem unmasked_signals_eq_false {f : Form} {o : Operands} {s : State} {src : Nat → Half}
    (hinv : signalsInvalid (laneSelected s o.aaa) f.vl.lanes src = true → s.im = true)
    (hden : f.psx = true → signalsDenormal (laneSelected s o.aaa) f.vl.lanes src = true → s.dm = true) :
    s.unmasked (signals f o s src) = false := by
  simp only [State.unmasked, signals_eq, Bool.or_eq_false_iff, Bool.and_eq_false_imp, Bool.and_eq_true,
    Bool.not_eq_false']
  exact ⟨hinv, fun h => hden h.1 h.2⟩

/-- A legal instruction of an enabled form, without `{sae}`, completes where its source is read and no exception that it
signals is unmasked. -/
theorem exec_completes {i : Instr} {s : State} {src : Nat → Half} (hl : Legal i s) (he : Enabled (Instr.form i) s)
    (hread : readSource (Instr.form i) (Instr.operands i) s = .ok src) (hsae : (Instr.operands i).sae = false)
    (hinv : signalsInvalid (laneSelected s (Instr.operands i).aaa) (Instr.form i).vl.lanes src = true → s.im = true)
    (hden : (Instr.form i).psx = true →
      signalsDenormal (laneSelected s (Instr.operands i).aaa) (Instr.form i).vl.lanes src = true → s.dm = true) :
    ∃ t, exec i s = .next t ∧
      Wrote s t (Instr.operands i).dst (Instr.form i).vl.lanes (resultLane (Instr.operands i) s src)
        (signalsInvalid (laneSelected s (Instr.operands i).aaa) (Instr.form i).vl.lanes src)
        ((Instr.form i).psx && signalsDenormal (laneSelected s (Instr.operands i).aaa) (Instr.form i).vl.lanes src)
        i.length ∧
      FrameKept s t (Instr.operands i).dst := by
  refine ⟨_, exec_next_iff.2 ⟨gate_eq_none hl he, src, hread, .inr (unmasked_signals_eq_false hinv hden), rfl⟩, ?_,
    commit_frame _ _ s src⟩
  have hwrote := commit_wrote (o := Instr.operands i) (src := src) (lanes_fit he.1 (form_vex_ne_v512 i))
  simpa only [hsae, Bool.not_false, Bool.true_and, operands_len] using hwrote

/-- The elements of a memory source by lane: all lanes have the one element of a broadcast (R42, R144). -/
def State.memElems (s : State) (addr : Nat) (b : Bool) (j : Nat) : Half := s.halfAt (if b then addr else addr + 2 * j)

section EvexMemory
variable {s : State} {psx : Bool} {vl : VecLen} {x : EvexOps EvexSrc} {a : AddrForm} {b : Bool} {n : Nat}

/-- An EVEX form scales a 1-byte displacement by the bytes it reads (R82). -/
theorem operandAddr_evexInstr (hn : Form.readBytes { enc := .evex, psx := psx, vl := vl } b = n) :
    operandAddr (Instr.form (evexInstr psx vl x)) (Instr.operands (evexInstr psx vl x)) s a b =
      s.linear x.p67 (evexInstr psx vl x).length n a := by
  rw [operandAddr, operands_len, operands_evexInstr, form_evexInstr, ← hn]
  rfl

/-- Completion of the EVEX forms of either mnemonic from memory; a broadcast is VCVTPH2PSX's alone (R135). -/
theorem evexInstr_memory_completes (hn : Form.readBytes { enc := .evex, psx := psx, vl := vl } b = n)
    (hsrc : EvexSrc.source x.src = .mem a b) (hb : b = true → psx = true) (hw : x.w = false) (hvvvv : x.vvvv = 15#4)
    (hvp : x.vp = true) (hwf : (evexInstr psx vl x).wfIn s.cfg.mode = true) (hz : x.z = true → x.aaa ≠ 0#3)
    (he : Enabled (Instr.form (evexInstr psx vl x)) s) (addr : Nat)
    (haddr : addr = s.linear x.p67 (evexInstr psx vl x).length n a)
    (hread : Readable s (Instr.form (evexInstr psx vl x)) addr n)
    (hac : NoAlignFault (Instr.form (evexInstr psx vl x)) s addr n)
    (hinv : signalsInvalid (laneSelected s x.aaa) vl.lanes (s.memElems addr b) = true → s.im = true)
    (hden : psx = true → signalsDenormal (laneSelected s x.aaa) vl.lanes (s.memElems addr b) = true → s.dm = true) :
    ∃ t, exec (evexInstr psx vl x) s = .next t ∧
      Wrote s t x.dst vl.lanes (resultLane (EvexOps.operands x) s (s.memElems addr b))
        (signalsInvalid (laneSelected s x.aaa) vl.lanes (s.memElems addr b))
        (psx && signalsDenormal (laneSelected s x.aaa) vl.lanes (s.memElems addr b))
        (evexInstr psx vl x).length ∧
      FrameKept s t x.dst := by
  have hops := operands_evexInstr psx vl x
  have hform := form_evexInstr psx vl x
  have hmem : (Instr.operands (evexInstr psx vl x)).src = .mem a b := by rw [hops]; exact hsrc
  have hbytes : (Instr.form (evexInstr psx vl x)).readBytes b = n := by rw [hform, hn]
  have hlegal : Legal (evexInstr psx vl x) s := by
    rw [Legal, Spellable, hops, hform]
    exact ⟨⟨hwf, hvp, hz⟩, hw, hvvvv, by simpa [Operands.bcst, EvexOps.operands, hsrc] using hb⟩
  rw [← operandAddr_evexInstr hn] at haddr
  subst haddr
  have hok := readSource_mem hmem (by rwa [hbytes]) (by rwa [hbytes])
  have h := exec_completes hlegal he hok (sae_of_mem hmem)
  rw [hops, hform] at h
  rw [hops, hform] at hinv hden ⊢
  exact h hinv hden

end EvexMemory

/-! ### The obligations -/

/-- Settles O24: a VEX form has no mask and scales no displacement, and its read raises no `#AC(0)`. -/
theorem vexMemoryFormsComplete : Obligations.VexMemoryFormsComplete := by
  intro s l256 p67 dst a i kl addr elem inv hwf he hread hinv
  have hops := operands_vexInstr l256 { p67 := p67, dst := dst, w := false, vvvv := 15#4, src := .mem a }
  have hmem : (Instr.operands i).src = .mem a false := by rw [hops]; rfl
  have hmask : (Instr.operands i).aaa = 0#3 := by rw [hops]; rfl
  have hdst : (Instr.operands i).dst = dst.setWidth 5 := by rw [hops]; rfl
  have hpsx : (Instr.form i).psx = false := by cases l256 <;> rfl
  have hlanes : (Instr.form i).vl.lanes = kl := by cases l256 <;> rfl
  have hbytes : (Instr.form i).readBytes false = 2 * kl := by cases l256 <;> rfl
  have haddr : operandAddr (Instr.form i) (Instr.operands i) s a false = addr := by cases l256 <;> rfl
  have hlegal : Legal i s := by
    rw [Legal, Spellable, hops]
    exact ⟨⟨hwf, rfl, nofun⟩, rfl, rfl, nofun⟩
  have hok := readSource_mem hmem (by rwa [hbytes, haddr]) (.inl (form_vexInstr_enc l256 _))
  have h := exec_completes hlegal he hok (sae_of_mem hmem)
  rw [hmask, laneSelected_zero, resultLane_of_aaa_eq_zero hmask, hlanes, hpsx, haddr, hdst] at h
  exact h hinv nofun

/-- Settles O26: VCVTPH2PS at the bytes of its vector length. -/
theorem evexMemoryFormsComplete : Obligations.EvexMemoryFormsComplete := by
  intro s vl p67 z dst aaa a i n addr elem sel inv hwf hz he hread hac hinv
  exact evexInstr_memory_completes (psx := false) (b := false) vl.srcBytes_eq rfl id rfl rfl rfl hwf hz he addr rfl
    hread hac hinv nofun

/-- Settles O28: VCVTPH2PSX at the bytes of its vector length. -/
theorem psxMemoryFormsComplete : Obligations.PsxMemoryFormsComplete := by
  intro s vl p67 z dst aaa a i n addr elem sel inv den hwf hz he hread hac hinv hden
  exact evexInstr_memory_completes (psx := true) (b := false) vl.srcBytes_eq rfl nofun rfl rfl rfl hwf hz he addr rfl
    hread hac hinv fun _ => hden

/-- Settles O29: VCVTPH2PSX at the two bytes of one element. -/
theorem psxBroadcastFormsComplete : Obligations.PsxBroadcastFormsComplete := by
  intro s vl p67 z dst aaa a i addr h sel inv den hwf hz he hread hac hinv hden
  exact evexInstr_memory_completes (psx := true) (b := true) rfl rfl id rfl rfl rfl hwf hz he addr rfl
    hread hac hinv fun _ => hden

end Sys2Proof.Machine
end

section
/-! SUPPORT. Encodings that agree (R102, R107, R120, R121, R133), and memory that a register source does not read (R42). -/

namespace Sys2Proof.Machine

/-- Settles O52: the checks, the source, the signals and the commit read neither memory nor the oracle's answers. -/
theorem registerSourcesReadNoMemory : Obligations.RegisterSourcesReadNoMemory := by
  intro s t i r sae m d hreg h
  obtain ⟨hgate, src, hsrc, hmasked, rfl⟩ := exec_next_iff.1 h
  obtain rfl := Except.ok.inj ((readSource_reg hreg).symm.trans hsrc)
  exact exec_next_iff.2 ⟨hgate, _, readSource_reg hreg, hmasked, rfl⟩

/-! ### The checks of two encodings of one instruction -/

theorem invalidOpcode_eq_false_iff {f : Form} {o : Operands} {s : State} :
    invalidOpcode f o s = false ↔
      o.w = false ∧ o.vvvv = 15#4 ∧ (f.psx = false → o.bcst = false) ∧ f.cpuidOk s.cfg = true ∧
        s.ctl.osStateOk f.enc = true := by
  simp [invalidOpcode, and_assoc]

/-- Where one form passes the checks, another passes with the same fields, if it is enabled and the source is no
broadcast. -/
theorem gate_eq_none_of_enabled {f f' : Form} {o : Operands} {s : State} (h : gate f o s = none) (he : Enabled f' s)
    (hb : o.bcst = false) : gate f' o s = none := by
  obtain ⟨henc, hop, -⟩ := gate_eq_none_iff.1 h
  obtain ⟨hw, hv, -⟩ := invalidOpcode_eq_false_iff.1 hop
  obtain ⟨hcpu, hos, hts⟩ := he
  exact gate_eq_none_iff.2 ⟨henc, invalidOpcode_eq_false_iff.2 ⟨hw, hv, fun _ => hb, hcpu, hos⟩, hts⟩

/-- A completed instruction passes the checks of its enabling (R181). -/
theorem enabled_of_gate_eq_none {f : Form} {o : Operands} {s : State} (h : gate f o s = none) : Enabled f s := by
  obtain ⟨-, hop, hts⟩ := gate_eq_none_iff.1 h
  obtain ⟨-, -, -, hcpu, hos⟩ := invalidOpcode_eq_false_iff.1 hop
  exact ⟨hcpu, hos, hts⟩

/-! ### VCVTPH2PS beside an instruction of the same fields and vector length -/

/-- What VCVTPH2PS signals is masked where what the other form signals is: it signals Invalid alike, and Denormal
never (R107). -/
theorem unmasked_signals_of_ps {f f' : Form} {o : Operands} {s : State} {src : Nat → Half} (hvl : f'.vl = f.vl)
    (hps : f'.psx = false) (h : s.unmasked (signals f o s src) = false) : s.unmasked (signals f' o s src) = false := by
  simp only [State.unmasked, signals_eq, hvl, hps, Bool.or_eq_false_iff] at h ⊢
  exact ⟨h.1, by simp⟩

/-- Where an instruction completes, VCVTPH2PS completes with the same fields and vector length and any length of its
encoding, if it passes the checks and reads the same elements. -/
theorem exec_ps_of_exec {i i' : Instr} {s t : State} {len : Nat} (h : exec i s = .next t)
    (hops : Instr.operands i' = { Instr.operands i with len := len })
    (hvl : (Instr.form i').vl = (Instr.form i).vl) (hps : (Instr.form i').psx = false)
    (hb : (Instr.operands i).bcst = false) (he : Enabled (Instr.form i') s)
    (hread : ∀ src, readSource (Instr.form i) (Instr.operands i) s = .ok src →
      readSource (Instr.form i') (Instr.operands i') s = .ok src) :
    ∃ src, t = commit (Instr.form i) (Instr.operands i) s src ∧
      exec i' s = .next (commit (Instr.form i') (Instr.operands i') s src) := by
  obtain ⟨hgate, src, hsrc, hmasked, ht⟩ := exec_next_iff.1 h
  refine ⟨src, ht, exec_next_iff.2 ⟨?_, src, hread src hsrc, ?_, rfl⟩⟩
  · rw [hops]
    exact gate_eq_none_of_enabled (o := { Instr.operands i with len := len }) hgate he hb
  · rw [hops]
    exact hmasked.imp_right (unmasked_signals_of_ps hvl hps)

/-- A form reads from `a` the very bytes that another does: they address the same operand, and the oracle answers the
read with the bytes. -/
structure ReadsSameBytes (f f' : Form) (o o' : Operands) (s : State) (a : AddrForm) : Prop where
  addr     : operandAddr f' o' s a false = operandAddr f o s a false
  readable : Readable s f' (operandAddr f' o' s a false) (f'.readBytes false)
  noAlign  : NoAlignFault f' s (operandAddr f' o' s a false) (f'.readBytes false)

/-- A source that is no broadcast is read alike by another form: the same register, or the same readable bytes. -/
theorem readSource_ok_of_same_source {f f' : Form} {o o' : Operands} {s : State} {src : Nat → Half}
    (hsrc : o'.src = o.src) (hb : o.bcst = false)
    (hmem : ∀ a, o.src = .mem a false → ReadsSameBytes f f' o o' s a)
    (h : readSource f o s = .ok src) : readSource f' o' s = .ok src := by
  cases hs : o.src with
  | reg r sae => exact (readSource_reg (hsrc.trans hs)).trans ((readSource_reg hs).symm.trans h)
  | mem a b =>
    obtain rfl : b = false := by simpa [Operands.bcst, hs] using hb
    have hsame := hmem a hs
    obtain ⟨-, -, helems⟩ := (readSource_mem_iff hs).1 h
    rw [readSource_mem (hsrc.trans hs) hsame.readable hsame.noAlign, helems, hsame.addr]

/-- The vector registers after a commit depend on the form's vector length alone. -/
theorem commit_zmm_of_same_operands {f f' : Form} {o : Operands} {len : Nat} (s : State) (src : Nat → Half)
    (hvl : f'.vl = f.vl) : (commit f' { o with len := len } s src).zmm = (commit f o s src).zmm := by
  rw [commit_zmm, commit_zmm, hvl]
  rfl

/-! ### The encodings -/

/-- The EVEX encoding without a mask that has the fields of a VEX one. -/
def unmaskedEvex (x : VexOps) : EvexOps EvexSrc :=
  { p67 := x.p67, dst := x.dst.setWidth 5, w := x.w, vvvv := x.vvvv, z := false, vp := true, aaa := 0#3,
    src := match x.src with
      | .reg r => .reg (r.setWidth 5)
      | .mem a => .mem a }

/-- Their operands differ in the length of the encoding alone. -/
theorem operands_unmaskedEvex (x : VexOps) :
    EvexOps.operands (unmaskedEvex x) =
      { VexOps.operands x with len := (EvexOps.operands (unmaskedEvex x)).len } := by
  have hreg : ∀ r : BitVec 4, (r.setWidth 5).toNat = r.toNat := fun r => BitVec.toNat_setWidth_of_le (by decide)
  obtain ⟨p67, dst, w, vvvv, src⟩ := x
  cases src <;>
    simp only [EvexOps.operands, VexOps.operands, unmaskedEvex, EvexSrc.low8, VexSrc.low8, hreg] <;> rfl

theorem bcst_vex (x : VexOps) : (VexOps.operands x).bcst = false := by
  obtain ⟨p67, dst, w, vvvv, src⟩ := x
  cases src <;> rfl

theorem form_psTwin (i : Instr) : Instr.form (psTwin i) = { Instr.form i with psx := false } := by cases i <;> rfl

theorem operands_psTwin (i : Instr) : Instr.operands (psTwin i) = Instr.operands i := by cases i <;> rfl

theorem enc_of_psx {i : Instr} (h : (Instr.form i).psx = true) : (Instr.form i).enc = .evex := by
  cases i
  case vcvtph2psVex128 | vcvtph2psVex256 => cases h
  all_goals rfl

/-- A processor that has VCVTPH2PSX has VCVTPH2PS of the same vector length (R2, R6). -/
theorem enabled_ps_of_enabled {f : Form} {s : State} (henc : f.enc = .evex) (h : Enabled f s) :
    Enabled { f with psx := false } s := by
  obtain ⟨hcpu, hos, hts⟩ := h
  refine ⟨?_, hos, hts⟩
  have hF := hasAvx512F_of_cpuidOk_evex henc hcpu
  rw [cpuidOk_evex henc, Bool.and_eq_true] at hcpu
  rw [cpuidOk_evex (f := { f with psx := false }) henc]
  simpa [hF] using hcpu.2

/-! ### The obligations -/

/-- Settles O58: the operands differ in the length of the encoding alone, and both forms signal Invalid only. -/
theorem vexAndEvexEncodingsAgree : Obligations.VexAndEvexEncodingsAgree := by
  intro s t l256 p67 dst src vl v e he hmem h
  have hopsV : Instr.operands v = VexOps.operands _ := operands_vexInstr l256 _
  have hops : Instr.operands e = { Instr.operands v with len := (Instr.operands e).len } := by
    rw [operands_psInstr, hopsV]
    exact operands_unmaskedEvex { p67 := p67, dst := dst, w := false, vvvv := 15#4, src := src }
  have hvl : (Instr.form e).vl = (Instr.form v).vl := by cases l256 <;> rfl
  have hps : (Instr.form e).psx = (Instr.form v).psx := by cases l256 <;> rfl
  have hb : (Instr.operands v).bcst = false := by rw [hopsV]; exact bcst_vex _
  have hmem' : ∀ a, (Instr.operands v).src = .mem a false →
      ReadsSameBytes (Instr.form v) (Instr.form e) (Instr.operands v) (Instr.operands e) s a := by
    intro a hs
    have hsrc : src = .mem a := by
      rw [hopsV] at hs
      cases src <;> cases hs
      rfl
    obtain ⟨haddr, hread, hac⟩ := hmem a hsrc
    have haddrE : operandAddr (Instr.form e) (Instr.operands e) s a false =
        s.linear p67 e.length (vl.bits / 16) a := operandAddr_evexInstr (psx := false) vl.srcBytes_eq
    have haddrV : operandAddr (Instr.form v) (Instr.operands v) s a false = s.linear p67 v.length 1 a := by
      cases l256 <;> rfl
    have hbytes : (Instr.form e).readBytes false = vl.bits / 16 := by
      rw [form_psInstr]
      exact vl.srcBytes_eq
    exact ⟨by rw [haddrE, haddrV, haddr], by rwa [hbytes, haddrE], by rwa [hbytes, haddrE]⟩
  obtain ⟨elems, rfl, hexec⟩ := exec_ps_of_exec h hops hvl (by rw [form_psInstr]) hb he fun _ =>
    readSource_ok_of_same_source (by rw [hops]) hb hmem'
  refine ⟨_, hexec, ?_, ?_⟩
  · rw [hops, commit_zmm_of_same_operands s elems hvl]
  · rw [hops, commit_mxcsr, commit_mxcsr, signals_eq, signals_eq, hvl, hps]
    rfl

/-- Settles O59: the twin reads the same elements, and signals what its own form signals, Denormal left out. -/
theorem psxAndPsGiveTheSameLanes : Obligations.PsxAndPsGiveTheSameLanes := by
  intro s t i f o hpsx hb hmem h
  have hform : f = { Instr.form i with psx := false } := form_psTwin i
  have hops := operands_psTwin i
  have hvl : f.vl = (Instr.form i).vl := by rw [hform]
  have henabled : Enabled f s := by
    obtain ⟨hgate, -⟩ := exec_next_iff.1 h
    rw [hform]
    exact enabled_ps_of_enabled (enc_of_psx hpsx) (enabled_of_gate_eq_none hgate)
  have hmem' : ∀ a, o.src = .mem a false → ReadsSameBytes (Instr.form i) f o o s a := fun a hs =>
    have ⟨hreadable, hnoAlign⟩ := hmem a hs
    ⟨by rw [hform]; rfl, hreadable, hnoAlign⟩
  obtain ⟨src, rfl, hexec⟩ := exec_ps_of_exec (len := o.len) h hops hvl (by rw [form_psTwin]) hb henabled fun _ =>
    readSource_ok_of_same_source (by rw [hops]) hb (by rwa [hops])
  obtain ⟨-, hcpu⟩ := low8_and_cpuidOk_of_exec_next h
  have hfit := lanes_fit hcpu (form_vex_ne_v512 i)
  have hwrote := commit_wrote (o := o) (src := src) hfit
  have hwrote' := commit_wrote (f := f) (o := o) (src := src) (by rwa [hvl])
  rw [hops] at hexec
  refine ⟨_, hexec, commit_zmm_of_same_operands s src hvl, rfl, ?_, ?_⟩
  · rw [hwrote.ie, hwrote'.ie, hvl]
  · rw [hwrote'.de, hform]
    simp

end Sys2Proof.Machine
end

section
/-! SUPPORT. The effective address as a sum of bit vectors of the address width (R44, R45, R69, R70), and the legacy
prefixes that are refused (R62, R79). -/

namespace Sys2Proof.Machine

/-! ### The parts of an address, at its width -/

section Address
variable (s : State) (w : Nat)

/-- The linear address is the exact sum as a bit vector. -/
theorem linear_eq_toNat (p67 : Bool) (len n : Nat) (a : AddrForm) :
    s.linear p67 len n a = (BitVec.ofInt (s.addrWidth p67) (s.exactAddr (s.addrWidth p67) len n a)).toNat := by
  rw [State.linear, BitVec.toNat_ofInt]
  norm_cast

theorem addrWidth_le (p67 : Bool) : s.addrWidth p67 ≤ 64 := by
  unfold State.addrWidth
  cases s.cfg.mode <;> cases p67 <;> decide

theorem ofInt_addrReg (i : BitVec 4) : BitVec.ofInt w (s.addrReg w i) = (s.readGpr i).setWidth w := by
  apply BitVec.eq_of_toNat_eq
  rw [State.addrReg, BitVec.ofInt_natCast]
  simp

/-- The scaled index; there is none for index 0100b (R69). -/
theorem ofInt_addrIndex_scaled (x : BitVec 4) (sc : Nat) :
    BitVec.ofInt w (s.addrIndex w x * 2 ^ sc) =
      if x = 4#4 then 0#w else (s.readGpr x).setWidth w <<< sc := by
  unfold State.addrIndex
  split
  · simp
  · have hscale : BitVec.ofInt w (2 ^ sc) = BitVec.twoPow w sc := by
      rw [← Nat.cast_ofNat, ← Nat.cast_pow, BitVec.ofInt_natCast]
      exact BitVec.eq_of_toNat_eq (by rw [BitVec.toNat_ofNat, BitVec.toNat_twoPow])
    rw [BitVec.ofInt_mul, ofInt_addrReg, hscale, BitVec.mul_twoPow_eq_shiftLeft]

/-- The displacement: a 1-byte one times `n` (R81, R82). -/
theorem ofInt_dispValue (n : Nat) (d : Disp) :
    BitVec.ofInt w (Disp.value n d) =
      match d with
      | .absent => 0#w
      | .d8 u => u.signExtend w * BitVec.ofNat w n
      | .d32 u => u.signExtend w := by
  cases d with
  | absent => simp [Disp.value]
  | d8 u => rw [Disp.value, BitVec.ofInt_mul, BitVec.ofInt_natCast]; rfl
  | d32 u => rfl

end Address

/-- The address of the next instruction, at the width of the address (R44). -/
theorem ofInt_nextPc (pc : Quad) (len : Nat) {w : Nat} (hw : w ≤ 64) :
    BitVec.ofInt w ((pc.toNat + len : Nat) : Int) = (pc + BitVec.ofNat 64 len).setWidth w := by
  rw [BitVec.ofInt_natCast, BitVec.setWidth_add _ _ hw, BitVec.ofNat_add, BitVec.ofNat_toNat,
    BitVec.setWidth_ofNat_of_le hw]

/-- Settles O57: the remainder modulo `2^w` of a sum is the sum of the parts' bit vectors. -/
theorem effectiveAddressIsTheSum : Obligations.EffectiveAddressIsTheSum := by
  intro s p67 len n r x sc d v w gpr index disp pcNext
  have hindex : BitVec.ofInt w (s.addrIndex w x * 2 ^ sc.toNat) = index := ofInt_addrIndex_scaled s w x sc.toNat
  have hdisp : BitVec.ofInt w (Disp.value n d) = disp := (ofInt_dispValue w n d).trans (by cases d <;> rfl)
  have hbase : BitVec.ofInt w (s.addrReg w r) = gpr r := ofInt_addrReg s w r
  simp only [linear_eq_toNat]
  refine ⟨congrArg BitVec.toNat ?base, congrArg BitVec.toNat ?disp32, congrArg BitVec.toNat ?sib,
    congrArg BitVec.toNat ?sibNoBase⟩
  case base => rw [State.exactAddr, BitVec.ofInt_add, hbase, hdisp]
  case sib => rw [State.exactAddr, BitVec.ofInt_add, BitVec.ofInt_add, hbase, hindex, hdisp]
  case sibNoBase => rw [State.exactAddr, BitVec.ofInt_add, hindex]; rfl
  case disp32 =>
    simp only [State.exactAddr, pcNext]
    cases s.cfg.mode with
    | mode64 => rw [BitVec.ofInt_add, ofInt_nextPc _ _ (addrWidth_le s p67)]; rfl
    | mode32 => rw [BitVec.zero_add]; rfl

end Sys2Proof.Machine

namespace Sys2Proof

/-! ### Legacy prefixes (R62) -/

theorem isSegmentOverride_iff {p : Byte} :
    isSegmentOverride p = true ↔ p ∈ [0x26#8, 0x2E#8, 0x36#8, 0x3E#8, 0x64#8, 0x65#8] := by
  simp [isSegmentOverride, or_assoc]

/-- A first byte that is not 67H is read by the body of the procedure. -/
theorem decode_cons_of_ne {p : Byte} (h : p ≠ 0x67#8) (m : Mode) (pol : SaeLenPolicy) (rest : List Byte) :
    decode m pol (p :: rest) = decodeBody m pol false (p :: rest) := by
  simp [decode, h]

/-- Settles O8: each is decided on the first byte, or the second after 67H. -/
theorem refusedLegacyPrefixes : Obligations.RefusedLegacyPrefixes := by
  intro m pol p rest
  refine ⟨fun hp => ?_, rfl, rfl⟩
  have hseg := isSegmentOverride_iff.2 hp
  have hne : p ≠ 0x67#8 := by
    rintro rfl
    cases hseg
  rw [decode_cons_of_ne hne, decodeBody, if_pos hseg]

end Sys2Proof
end

section
/-! SUPPORT. The encoding (30_encoding.md): the round trip (R61), bytes after the instruction (R83), the words of R60,
the illegal prefixes before VEX and EVEX (R62), and what the decoder refuses (R66, R73, R75, R78, R79). -/

namespace Sys2Proof

/-- Settles O2: the round trip, form by form, of `decode_encode`. -/
theorem decodeOfEncodeIsTheInstruction : Obligations.DecodeOfEncodeIsTheInstruction :=
  fun _ pol _ tail hwf => decode_encode pol tail hwf

/-- Settles O5: every answer of the decoder stands when more bytes follow. -/
theorem decodeReadsNoLaterByte : Obligations.DecodeReadsNoLaterByte := by
  intro m pol bs i rest tail h
  have hstands := decodesPrefix_decode m pol bs tail
  rw [h] at hstands
  exact hstands nofun

/-- Settles O1: each word is read bit by bit. -/
theorem sampleWordsDecode : Obligations.SampleWordsDecode :=
  ⟨rfl, rfl, rfl, rfl, rfl, rfl, rfl, rfl⟩

/-! ### Illegal prefixes (R62) -/

theorem isUdPrefix_iff {m : Mode} {p : Byte} :
    isUdPrefix m p = true ↔
      p = 0xF0#8 ∨ p = 0x66#8 ∨ p = 0xF2#8 ∨ p = 0xF3#8 ∨ (m = .mode64 ∧ p.extractLsb' 4 4 = 4#4) := by
  simp [isUdPrefix, or_assoc]

/-- 67H and the segment overrides raise no `#UD`. -/
theorem ne_67_and_not_isSegmentOverride_of_isUdPrefix {m : Mode} {p : Byte} (h : isUdPrefix m p = true) :
    p ≠ 0x67#8 ∧ isSegmentOverride p = false := by
  rw [isUdPrefix_iff] at h
  rw [← Bool.not_eq_true, isSegmentOverride_iff]
  constructor
  · rintro rfl
    simp at h
  · intro hseg
    simp only [List.mem_cons, List.not_mem_nil, or_false] at hseg
    rcases hseg with rfl | rfl | rfl | rfl | rfl | rfl <;> simp at h

theorem decode_of_isUdPrefix {m : Mode} {p : Byte} (h : isUdPrefix m p = true) (pol : SaeLenPolicy)
    (rest : List Byte) : decode m pol (p :: rest) = afterUdPrefix m rest := by
  obtain ⟨h67, hseg⟩ := ne_67_and_not_isSegmentOverride_of_isUdPrefix h
  rw [decode_cons_of_ne h67, decodeBody, hseg, if_neg Bool.false_ne_true, if_pos h]

/-- C4H and 62H, in Mode32 with 11b after them, begin VEX and EVEX (R66). -/
theorem afterUdPrefix_eq_ud {m : Mode} {c n : Byte} (hc : c = 0xC4#8 ∨ c = 0x62#8)
    (hn : m = .mode32 → n.extractLsb' 6 2 = 3#2) (rest : List Byte) : afterUdPrefix m (c :: n :: rest) = .ud := by
  cases m with
  | mode64 => rcases hc with rfl | rfl <;> rfl
  | mode32 => rcases hc with rfl | rfl <;> exact if_pos (beq_iff_eq.2 (hn rfl))

namespace Machine

/-- Settles O7: such a first byte sends the decoder to `afterUdPrefix`, which answers `#UD` at C4H or 62H. -/
theorem illegalPrefixRaisesInvalidOpcode : Obligations.IllegalPrefixRaisesInvalidOpcode := by
  intro s p c n rest hfetch hp hc hn
  rw [step, hfetch, decode_of_isUdPrefix (isUdPrefix_iff.2 hp), afterUdPrefix_eq_ud hc hn]

end Machine

/-! ### What the decoder refuses (R66, R73, R75, R78, R79) -/

theorem decode_vex (m : Mode) (pol : SaeLenPolicy) (bs : List Byte) :
    decode m pol (0xC4#8 :: bs) = decodeVex m false bs :=
  decode_prefix67_vex (fun _ => rfl) pol bs

theorem decode_evex (m : Mode) (pol : SaeLenPolicy) (bs : List Byte) :
    decode m pol (0x62#8 :: bs) = decodeEvex m pol false bs :=
  decode_prefix67_evex (fun _ => rfl) pol bs

theorem isOldInstruction_eq_false_iff {m : Mode} {b : Byte} :
    isOldInstruction m b = false ↔ (m = .mode32 → b.extractLsb' 6 2 = 3#2) := by
  simp [isOldInstruction]

/-- Settles O10: the byte after C4H or 62H decides, and then the stored B of a VEX form. -/
theorem mode32EncodingsAreRestricted : Obligations.Mode32EncodingsAreRestricted := by
  intro pol c n rest hc
  refine ⟨fun htop => ?old, fun b2 modrm hvex htop hB hmap hpp => ?storedB⟩
  case old =>
    have hold : isOldInstruction .mode32 n = true := by simpa [isOldInstruction] using htop
    rcases hc with rfl | rfl
    · rw [decode_vex, decodeVex_of_isOld hold]
    · rw [decode_evex, decodeEvex_of_isOld hold]
  case storedB =>
    subst hvex
    rw [decode_vex, decodeVex, isOldInstruction_eq_false_iff.2 fun _ => htop]
    simp [hmap, hpp, show n[5] = false from hB]

/-- The fields that the decoder reads in the bytes after 62H (R65, R68, R71 to R78). -/
def evexFields {σ : Type} (p67 : Bool) (p0 p1 p2 modrm : Byte) (src : σ) : EvexOps σ :=
  { p67 := p67,
    dst := BitVec.ofBool (!p0.getLsbD 4) ++ (BitVec.ofBool (!p0.getLsbD 7) ++ modrm.extractLsb' 3 3),
    w := p1.getLsbD 7, vvvv := p1.extractLsb' 3 4, z := p2.getLsbD 7, vp := p2.getLsbD 3,
    aaa := p2.extractLsb' 0 3, src := src }

/-- Settles O9: the reserved bits are looked at first, then `L'L` as `b` and ModRM say. -/
theorem reservedEvexFieldsAreRefused : Obligations.ReservedEvexFieldsAreRefused := by
  intro m pol p0 p1 p2 op modrm rest answer htop
  have hanswer : answer = decodeEvex m pol false (p0 :: p1 :: p2 :: op :: modrm :: rest) := decode_evex ..
  rw [hanswer, decodeEvex, isOldInstruction_eq_false_iff.2 htop]
  refine ⟨fun hreserved => ?reserved, fun hzero hone hmap hpp hop => ?row⟩
  case reserved =>
    have hbits : (p0.getLsbD 3 || !p1.getLsbD 2) = true := by
      simpa only [Bool.or_eq_true, Bool.not_eq_true'] using hreserved
    simp only [hbits, if_true, Bool.false_eq_true, if_false]
  case row =>
    have hbits : (p0.getLsbD 3 || !p1.getLsbD 2) = false := by rw [hzero, hone]; rfl
    have hrow : (p0.extractLsb' 0 3 != 2#3 && p0.extractLsb' 0 3 != 6#3 || p1.extractLsb' 0 2 != 1#2 || op != 0x13#8) =
        false := by
      rcases hmap with hmap | hmap <;> rw [hmap, hpp, hop] <;> rfl
    simp only [hbits, hrow, Bool.false_eq_true, if_false]
    refine ⟨fun hreg hb hlen hpol => ?saeLen, fun hsae hlen => ?evexLen, fun hreg hb hpol h32 => ?sae⟩
    case saeLen => simp [hreg, hb, hlen, hpol]
    case evexLen =>
      have hsae' : (modrm.extractLsb' 6 2 == 3#2 && p2.getLsbD 4) = false := by simpa [imp_iff_not_or] using hsae
      simp only [hsae', hlen]
      rfl
    case sae =>
      have h32' : (m == .mode32 && (!p0.getLsbD 5 || !p0.getLsbD 4)) = false := by
        cases m with
        | mode64 => rfl
        | mode32 => simp [h32 rfl]
      have hpol' : (pol == .require10) = false := by rw [hpol]; rfl
      simp only [hreg, hb, h32', hpol', Bool.and_false]
      refine ⟨evexFields false p0 p1 p2 modrm _, ?_, rfl⟩
      rcases hmap with hmap | hmap <;> rw [hmap] <;> rfl

end Sys2Proof
end

section
/-! SUPPORT. The encodings that a meaning refuses or that raise `#UD` (R74, R76, R78, R79, R135), and completion of the
EVEX forms from a register (R130 to R133, R140 to R143). -/

namespace Sys2Proof.Machine

/-- Settles O33: W and `b` with memory are among the `#UD` conditions (R150). -/
theorem evexWAndForbiddenBroadcastRaiseInvalidOpcode : Obligations.EvexWAndForbiddenBroadcastRaiseInvalidOpcode := by
  intro s i h
  refine ⟨fun _ hw => exec_eq_ud h ?w, fun a hps hsrc => exec_eq_ud h ?bcst⟩
  case w => simp [invalidOpcode, hw]
  case bcst => simp [invalidOpcode, hps, Operands.bcst, hsrc]

/-- Settles O38: `encodingRefusal`, in its order. -/
theorem reservedFieldsAreRefusedByTheMeaning : Obligations.ReservedFieldsAreRefusedByTheMeaning := by
  intro s i o
  refine ⟨fun hm h67 => exec_eq_refused ?addr16, fun h67 hvp => exec_eq_refused ?evexVprime,
    fun h67 hvp hz haaa => exec_eq_refused ?zWithoutMask, fun hm h67 hvp hz hlow8 => exec_eq_refused ?mode32Regs⟩
  case addr16 => simp [encodingRefusal, hm, h67]
  case evexVprime => simpa [encodingRefusal, o, hvp] using h67
  case zWithoutMask => simpa [encodingRefusal, o, hvp, hz, haaa] using h67
  case mode32Regs => simpa [encodingRefusal, o, hm, h67, hvp, hlow8] using hz

/-! ### Completion from a register -/

section EvexRegister
variable {s : State} {psx : Bool} {vl : VecLen} {x : EvexOps EvexSrc} {r : BitVec 5}

theorem length_evexInstr_reg (hsrc : x.src = .reg r) :
    (evexInstr psx vl x).length = if x.p67 then 7 else 6 := by
  rw [← operands_len, operands_evexInstr, EvexOps.operands, hsrc]
  cases x.p67 <;> rfl

/-- Completion of the EVEX forms of either mnemonic from a register, without `{sae}`. -/
theorem evexInstr_register_completes (hsrc : x.src = .reg r) (hw : x.w = false) (hvvvv : x.vvvv = 15#4)
    (hvp : x.vp = true) (hwf : (evexInstr psx vl x).wfIn s.cfg.mode = true) (hz : x.z = true → x.aaa ≠ 0#3)
    (he : Enabled (Instr.form (evexInstr psx vl x)) s)
    (hinv : signalsInvalid (laneSelected s x.aaa) vl.lanes (halfLane (s.readVec r)) = true → s.im = true)
    (hden : psx = true →
      signalsDenormal (laneSelected s x.aaa) vl.lanes (halfLane (s.readVec r)) = true → s.dm = true) :
    ∃ t, exec (evexInstr psx vl x) s = .next t ∧
      Wrote s t x.dst vl.lanes (resultLane (EvexOps.operands x) s (halfLane (s.readVec r)))
        (signalsInvalid (laneSelected s x.aaa) vl.lanes (halfLane (s.readVec r)))
        (psx && signalsDenormal (laneSelected s x.aaa) vl.lanes (halfLane (s.readVec r)))
        (if x.p67 then 7 else 6) ∧
      FrameKept s t x.dst := by
  have hops := operands_evexInstr psx vl x
  have hform := form_evexInstr psx vl x
  have hreg : (EvexOps.operands x).src = .reg r false := by rw [EvexOps.operands, hsrc]; rfl
  have hlegal : Legal (evexInstr psx vl x) s := by
    rw [Legal, Spellable, hops, hform]
    exact ⟨⟨hwf, hvp, hz⟩, hw, hvvvv, by simp [Operands.bcst, hreg]⟩
  have h := exec_completes hlegal he (readSource_reg (by rw [hops, hreg])) (by rw [hops, Operands.sae, hreg])
  rw [hops, hform, length_evexInstr_reg hsrc] at h
  exact h hinv hden

end EvexRegister

/-- Settles O25: VCVTPH2PS, which signals no Denormal. -/
theorem evexRegisterFormsComplete : Obligations.EvexRegisterFormsComplete := by
  intro s vl p67 z dst r aaa i elem sel inv hwf hz he hinv
  exact evexInstr_register_completes (psx := false) rfl rfl rfl rfl hwf hz he hinv nofun

/-- Settles O27: VCVTPH2PSX, which signals both. -/
theorem psxRegisterFormsComplete : Obligations.PsxRegisterFormsComplete := by
  intro s vl p67 z dst r aaa i elem sel inv den hwf hz he hinv hden
  exact evexInstr_register_completes (psx := true) rfl rfl rfl rfl hwf hz he hinv fun _ => hden

end Sys2Proof.Machine
end

section
/-! SUPPORT. What the decoder reads (R62 to R79): an instruction that it gives, the bytes that it was read from, and the
bytes that are left. -/

namespace Sys2Proof

/-! ### Operand 2 (R68 to R72) -/

/-- Operand 2 has been read after ModRM, with the bits X and B un-inverted as `x` and `b`: it takes `size` bytes, an
encoding spells it, and without these bits it names registers 0 to 7. -/
structure OperandRead (x b : Bool) (bs rest : List Byte) (size : Nat) (wf low8 : Bool) : Prop where
  length : bs.length = size + rest.length
  wf     : wf = true
  low8   : x = false → b = false → low8 = true

@[simp] theorem lowThree_ofBool_append (b : Bool) (r : BitVec 3) : lowThree (BitVec.ofBool b ++ r) = r := by
  revert b r
  decide

theorem ofBool_append_lt_eight {b : Bool} (h : b = false) (r : BitVec 3) : (BitVec.ofBool b ++ r).toNat < 8 := by
  subst h
  revert r
  decide

theorem ofBool_append_append_lt_eight {x b : Bool} (hx : x = false) (hb : b = false) (r : BitVec 3) :
    (BitVec.ofBool x ++ (BitVec.ofBool b ++ r)).toNat < 8 := by
  subst hx hb
  revert r
  decide

theorem takeD32_length {bs rest : List Byte} {v : BitVec 32} (h : takeD32 bs = some (v, rest)) :
    bs.length = 4 + rest.length := by
  unfold takeD32 at h
  split at h
  · cases h
    simp only [List.length_cons]
    omega
  · cases h

theorem takeDisp_length {mod : BitVec 2} {bs rest : List Byte} {d : Disp} (h : takeDisp mod bs = some (d, rest)) :
    bs.length = d.size + rest.length := by
  unfold takeDisp at h
  split at h
  · cases h
    exact (Nat.zero_add _).symm
  · split at h
    · cases bs <;> cases h
      exact Nat.add_comm ..
    · obtain ⟨p, hv, ⟨⟩⟩ := Option.map_eq_some_iff.1 h
      exact takeD32_length hv

/-- Only `mod = 00b` has no displacement. -/
theorem mod_eq_zero_of_takeDisp_absent {mod : BitVec 2} {bs rest : List Byte}
    (h : takeDisp mod bs = some (.absent, rest)) : mod = 0#2 := by
  unfold takeDisp at h
  split at h
  · next h0 => exact beq_iff_eq.1 h0
  · split at h
    · cases bs <;> cases h
    · obtain ⟨p, hv, ⟨⟩⟩ := Option.map_eq_some_iff.1 h

/-- A register that `rm` or `base` names beside the displacement of `mod` is not the "no base" of R70. -/
theorem okWithBase_of_takeDisp {mod : BitVec 2} {bs rest : List Byte} {d : Disp} {r : BitVec 3}
    (h : takeDisp mod bs = some (d, rest)) (hbase : ¬ (r == 5#3 && mod == 0#2) = true) (b : Bool) :
    d.okWithBase (BitVec.ofBool b ++ r) = true := by
  rw [Disp.okWithBase, lowThree_ofBool_append, Bool.or_eq_true, bne_iff_ne, bne_iff_ne, ← not_and_or]
  rintro ⟨rfl, hr⟩
  exact hbase (by simp [hr, mod_eq_zero_of_takeDisp_absent h])

theorem operandRead_of_takeAddr {x b : Bool} {modrm : Byte} {bs rest : List Byte} {a : AddrForm}
    (h : takeAddr x b modrm bs = some (a, rest)) : OperandRead x b bs rest a.size a.wf a.low8 := by
  unfold takeAddr at h
  dsimp only at h
  split at h
  · cases bs with
    | nil => cases h
    | cons sib bs =>
      dsimp only at h
      split at h
      · obtain ⟨p, hv, ⟨⟩⟩ := Option.map_eq_some_iff.1 h
        refine ⟨?_, rfl, fun hx _ => decide_eq_true (ofBool_append_lt_eight hx _)⟩
        rw [List.length_cons, takeD32_length hv, AddrForm.size]
        omega
      · next hbase =>
        obtain ⟨p, hd, ⟨⟩⟩ := Option.map_eq_some_iff.1 h
        refine ⟨?_, okWithBase_of_takeDisp hd hbase b, fun hx hb => Bool.and_eq_true_iff.2
          ⟨decide_eq_true (ofBool_append_lt_eight hx _), decide_eq_true (ofBool_append_lt_eight hb _)⟩⟩
        rw [List.length_cons, takeDisp_length hd, AddrForm.size]
        omega
  · next hsib =>
    split at h
    · obtain ⟨p, hv, ⟨⟩⟩ := Option.map_eq_some_iff.1 h
      exact ⟨takeD32_length hv, rfl, fun _ _ => rfl⟩
    · next hbase =>
      obtain ⟨p, hd, ⟨⟩⟩ := Option.map_eq_some_iff.1 h
      refine ⟨takeDisp_length hd, Bool.and_eq_true_iff.2 ⟨?_, okWithBase_of_takeDisp hd hbase b⟩,
        fun _ hb => decide_eq_true (ofBool_append_lt_eight hb _)⟩
      rw [lowThree_ofBool_append]
      simpa using hsib

/-! ### The bits that a row of the opcode table fixes (R60) -/

section Masks
variable {b : Byte}

theorem and_mask_low5 (h : b.extractLsb' 0 5 = 2#5) : b &&& 0x1F#8 = 0x02#8 := by
  revert b
  decide

theorem and_mask_low4 {map : BitVec 3} (h0 : b.getLsbD 3 = false) (h : b.extractLsb' 0 3 = map) :
    b &&& 0x0F#8 = 0#5 ++ map := by
  subst h
  revert b
  decide

theorem and_mask_low3 {bit : Bool} (h1 : b.getLsbD 2 = bit) (h : b.extractLsb' 0 2 = 1#2) :
    b &&& 0x07#8 = 0#5 ++ (BitVec.ofBool bit ++ 1#2) := by
  subst h1
  revert b
  decide

theorem and_mask_len {len : BitVec 2} (h : b.extractLsb' 5 2 = len) : b &&& 0x60#8 = 0#1 ++ (len ++ 0#5) := by
  subst h
  revert b
  decide

end Masks

/-! ### Rows, patterns and operands (R60) -/

/-- `rowPattern` of a VEX row, by the bit L. -/
def vexPattern (l : Bool) : List (Byte × Byte) :=
  [(0xFF#8, 0xC4#8), (0x1F#8, 0x02#8), (0x07#8, 0#5 ++ (BitVec.ofBool l ++ 1#2)), (0xFF#8, 0x13#8)]

/-- `rowPattern` of an EVEX row, by the opcode map and `L'L`. -/
def evexPattern (map : BitVec 3) (len : BitVec 2) : List (Byte × Byte) :=
  [(0xFF#8, 0x62#8), (0x0F#8, 0#5 ++ map), (0x07#8, 0x05#8), (0x60#8, 0#1 ++ (len ++ 0#5)), (0xFF#8, 0x13#8)]

theorem rowPattern_vexInstr (l : Bool) (x : VexOps) : Machine.rowPattern (Machine.vexInstr l x) = vexPattern l := by
  cases l <;> rfl

theorem rowPattern_evexRow (map6 l256 : Bool) (x : EvexOps EvexSrc) :
    Machine.rowPattern (evexRow map6 l256 x) = evexPattern (mapBits map6) (lenBits l256) := by
  cases map6 <;> cases l256 <;> rfl

theorem rowPattern_evexRow512 (map6 : Bool) (x : EvexOps EvexSrc512) :
    Machine.rowPattern (evexRow512 map6 x) = evexPattern (mapBits map6) 2#2 := by
  cases map6 <;> rfl

theorem operands_evexRow (map6 l256 : Bool) (x : EvexOps EvexSrc) :
    Machine.Instr.operands (evexRow map6 l256 x) = Machine.EvexOps.operands x := by
  cases map6 <;> cases l256 <;> rfl

theorem operands_evexRow512 (map6 : Bool) (x : EvexOps EvexSrc512) :
    Machine.Instr.operands (evexRow512 map6 x) = Machine.EvexOps.operands512 x := by
  cases map6 <;> rfl

theorem wf_vexInstr (l : Bool) (x : VexOps) : (Machine.vexInstr l x).wf = x.src.wf := by cases l <;> rfl

theorem wf_evexRow (map6 l256 : Bool) (x : EvexOps EvexSrc) : (evexRow map6 l256 x).wf = x.src.wf := by
  cases map6 <;> cases l256 <;> rfl

theorem wf_evexRow512 (map6 : Bool) (x : EvexOps EvexSrc512) : (evexRow512 map6 x).wf = x.src.wf := by
  cases map6 <;> rfl

theorem mapBits_of_row {map : BitVec 3} (h : map = 2#3 ∨ map = 6#3) : mapBits (map == 6#3) = map := by
  rcases h with rfl | rfl <;> rfl

theorem lenBits_of_short {len : BitVec 2} (h2 : len ≠ 2#2) (h3 : len ≠ 3#2) : lenBits (len == 1#2) = len := by
  revert len
  decide

/-! ### What an instruction and the bytes it was read from have to do with each other -/

/-- The fields that the decoder reads in the bytes after C4H (R63, R68, R71 to R77). -/
def vexFields (p67 : Bool) (b1 b2 modrm : Byte) (src : VexSrc) : VexOps :=
  { p67 := p67, dst := BitVec.ofBool (!b1.getLsbD 7) ++ modrm.extractLsb' 3 3, w := b2.getLsbD 7,
    vvvv := b2.extractLsb' 3 4, src := src }

/-- `i` has been read from the bytes `bs`, which begin with C4H or 62H, and `rest` is left. -/
structure DecodedFrom (m : Mode) (pol : SaeLenPolicy) (p67 : Bool) (bs : List Byte) (i : Instr) (rest : List Byte) :
    Prop where
  has67  : i.p67 = p67
  length : p67.toNat + bs.length = i.length + rest.length
  wf     : i.wf = true
  low8   : m = .mode32 → (Machine.Instr.operands i).vp = true →
    ((Machine.Instr.operands i).z = true → (Machine.Instr.operands i).aaa ≠ 0#3) → i.low8 = true
  row    : pol = .require10 → Machine.matchesRow (Machine.rowPattern i) bs = true

/-- In Mode32 the byte after C4H or 62H stores R and X as 1 (R66). -/
theorem stored_of_isOldInstruction {m : Mode} {b : Byte} (h : isOldInstruction m b = false) (hm : m = .mode32) :
    b.getLsbD 7 = true ∧ b.getLsbD 6 = true := by
  have htop := isOldInstruction_eq_false_iff.1 h hm
  clear h
  revert b
  decide

section Vex
variable {m : Mode} {pol : SaeLenPolicy} {p67 : Bool} {b1 b2 modrm : Byte} {bs rest : List Byte} {src : VexSrc}

theorem matchesRow_vexPattern (hmap : b1.extractLsb' 0 5 = 2#5) (hpp : b2.extractLsb' 0 2 = 1#2) :
    Machine.matchesRow (vexPattern (b2.getLsbD 2)) (0xC4#8 :: b1 :: b2 :: 0x13#8 :: bs) = true := by
  simp only [vexPattern, Machine.matchesRow, and_mask_low5 hmap, and_mask_low3 rfl hpp, BEq.rfl]
  rfl

theorem decodedFrom_vex (hmap : b1.extractLsb' 0 5 = 2#5) (hpp : b2.extractLsb' 0 2 = 1#2)
    (h32 : m = .mode32 → b1.getLsbD 7 = true ∧ b1.getLsbD 6 = true ∧ b1.getLsbD 5 = true)
    (hsrc : OperandRead (!b1.getLsbD 6) (!b1.getLsbD 5) bs rest src.size src.wf src.low8) :
    DecodedFrom m pol p67 (0xC4#8 :: b1 :: b2 :: 0x13#8 :: modrm :: bs)
      (Machine.vexInstr (b2.getLsbD 2) (vexFields p67 b1 b2 modrm src)) rest where
  has67 := by rw [← Machine.operands_p67, Machine.operands_vexInstr]; rfl
  length := by
    rw [← Machine.operands_len, Machine.operands_vexInstr]
    simp only [Machine.VexOps.operands, VexOps.length, vexFields, List.length_cons, hsrc.length]
    omega
  wf := (wf_vexInstr ..).trans hsrc.wf
  low8 hm _ _ := by
    obtain ⟨hr, hx, hb⟩ := h32 hm
    rw [← Machine.operands_low8, Machine.operands_vexInstr]
    exact Bool.and_eq_true_iff.2 ⟨decide_eq_true (ofBool_append_lt_eight (by rw [hr]; rfl) _),
      hsrc.low8 (by rw [hx]; rfl) (by rw [hb]; rfl)⟩
  row _ := by rw [rowPattern_vexInstr]; exact matchesRow_vexPattern hmap hpp

end Vex

/-- The checks of R79 on the bytes after 62H that the opcode table does not leave to `L'L`. -/
structure EvexHead (m : Mode) (p0 p1 p2 : Byte) : Prop where
  zero : p0.getLsbD 3 = false
  map  : p0.extractLsb' 0 3 = 2#3 ∨ p0.extractLsb' 0 3 = 6#3
  one  : p1.getLsbD 2 = true
  pp   : p1.extractLsb' 0 2 = 1#2
  top  : m = .mode32 → p0.getLsbD 7 = true ∧ p0.getLsbD 6 = true
  low  : m = .mode32 → p2.getLsbD 3 = true → (p2.getLsbD 7 = true → p2.extractLsb' 0 3 ≠ 0#3) →
    p0.getLsbD 5 = true ∧ p0.getLsbD 4 = true

section Evex
variable {m : Mode} {pol : SaeLenPolicy} {p67 : Bool} {p0 p1 p2 modrm : Byte} {bs rest : List Byte}

theorem EvexHead.matchesRow (h : EvexHead m p0 p1 p2) {len : BitVec 2} (hlen : p2.extractLsb' 5 2 = len) :
    Machine.matchesRow (evexPattern (mapBits (p0.extractLsb' 0 3 == 6#3)) len)
      (0x62#8 :: p0 :: p1 :: p2 :: 0x13#8 :: bs) = true := by
  rw [mapBits_of_row h.map]
  simp only [evexPattern, Machine.matchesRow, and_mask_low4 h.zero rfl, and_mask_low3 h.one h.pp, and_mask_len hlen,
    BEq.rfl]
  rfl

theorem EvexHead.low8 {σ : Type} {src : σ} {size : Nat} {wf low8 : Bool} (h : EvexHead m p0 p1 p2)
    (hsrc : OperandRead (!p0.getLsbD 6) (!p0.getLsbD 5) bs rest size wf low8) (hm : m = .mode32)
    (hvp : p2.getLsbD 3 = true) (hz : p2.getLsbD 7 = true → p2.extractLsb' 0 3 ≠ 0#3) :
    (decide ((evexFields p67 p0 p1 p2 modrm src).dst.toNat < 8) && low8) = true := by
  obtain ⟨hr, hx⟩ := h.top hm
  obtain ⟨hb, hr'⟩ := h.low hm hvp hz
  exact Bool.and_eq_true_iff.2 ⟨decide_eq_true (ofBool_append_append_lt_eight (by rw [hr']; rfl) (by rw [hr]; rfl) _),
    hsrc.low8 (by rw [hx]; rfl) (by rw [hb]; rfl)⟩

theorem OperandRead.length_eq_evexLength {x b wf low8 : Bool} {size : Nat} (h : OperandRead x b bs rest size wf low8)
    (b0 b1 b2 b3 b4 b5 : Byte) :
    p67.toNat + (b0 :: b1 :: b2 :: b3 :: b4 :: b5 :: bs).length = evexLength p67 size + rest.length := by
  simp only [evexLength, List.length_cons, h.length]
  omega

theorem decodedFrom_evexRow {src : EvexSrc} (h : EvexHead m p0 p1 p2)
    (hsrc : OperandRead (!p0.getLsbD 6) (!p0.getLsbD 5) bs rest src.size src.wf src.low8)
    (h2 : p2.extractLsb' 5 2 ≠ 2#2) (h3 : p2.extractLsb' 5 2 ≠ 3#2) :
    DecodedFrom m pol p67 (0x62#8 :: p0 :: p1 :: p2 :: 0x13#8 :: modrm :: bs)
      (evexRow (p0.extractLsb' 0 3 == 6#3) (p2.extractLsb' 5 2 == 1#2) (evexFields p67 p0 p1 p2 modrm src)) rest where
  has67 := by rw [← Machine.operands_p67, operands_evexRow]; rfl
  length := by rw [← Machine.operands_len, operands_evexRow]; exact hsrc.length_eq_evexLength ..
  wf := (wf_evexRow ..).trans hsrc.wf
  low8 := by rw [← Machine.operands_low8, operands_evexRow]; exact h.low8 hsrc
  row _ := by rw [rowPattern_evexRow]; exact h.matchesRow (lenBits_of_short h2 h3).symm

theorem decodedFrom_evexRow512 {src : EvexSrc512} (h : EvexHead m p0 p1 p2)
    (hsrc : OperandRead (!p0.getLsbD 6) (!p0.getLsbD 5) bs rest src.size src.wf src.low8)
    (hlen : pol = .require10 → p2.extractLsb' 5 2 = 2#2) :
    DecodedFrom m pol p67 (0x62#8 :: p0 :: p1 :: p2 :: 0x13#8 :: modrm :: bs)
      (evexRow512 (p0.extractLsb' 0 3 == 6#3) (evexFields p67 p0 p1 p2 modrm src)) rest where
  has67 := by rw [← Machine.operands_p67, operands_evexRow512]; rfl
  length := by rw [← Machine.operands_len, operands_evexRow512]; exact hsrc.length_eq_evexLength ..
  wf := (wf_evexRow512 ..).trans hsrc.wf
  low8 := by rw [← Machine.operands_low8, operands_evexRow512]; exact h.low8 hsrc
  row hpol := by rw [rowPattern_evexRow512]; exact h.matchesRow (hlen hpol)

end Evex

/-! ### Every instruction that the decoder gives -/

/-- The answer, if it is an instruction, has the property `P` with the bytes it leaves. -/
def Decoded.Gives (P : Instr → List Byte → Prop) (d : Decoded) : Prop := ∀ i rest, d = .instr i rest → P i rest

section Gives
variable {P : Instr → List Byte → Prop}

theorem Decoded.Gives.refused {r : EncodingRefusal} : (Decoded.refused r).Gives P := fun _ _ h => nomatch h
theorem Decoded.Gives.truncated : Decoded.truncated.Gives P := fun _ _ h => nomatch h
theorem Decoded.Gives.ud : Decoded.ud.Gives P := fun _ _ h => nomatch h

theorem Decoded.Gives.instr {i : Instr} {rest : List Byte} (h : P i rest) : (Decoded.instr i rest).Gives P := by
  rintro _ _ ⟨⟩
  exact h

theorem Decoded.Gives.ite {c : Prop} [Decidable c] {a b : Decoded} (ha : c → a.Gives P) (hb : ¬ c → b.Gives P) :
    (if c then a else b).Gives P := by
  split
  · next h => exact ha h
  · next h => exact hb h

/-- A check that refuses: what follows it has what it lets pass. -/
theorem Decoded.Gives.unlessRefused {c : Prop} [Decidable c] {r : EncodingRefusal} {d : Decoded}
    (h : ¬ c → d.Gives P) : (if c then .refused r else d : Decoded).Gives P :=
  .ite (fun _ => .refused) h

theorem afterUdPrefix_gives (m : Mode) (bs : List Byte) : (afterUdPrefix m bs).Gives P := by
  induction bs with
  | nil => exact .truncated
  | cons b bs ih =>
    refine .ite (fun _ => ih) fun _ => .ite (fun _ => ?_) fun _ => .refused
    cases m with
    | mode64 => exact .ud
    | mode32 =>
      cases bs with
      | nil => exact .truncated
      | cons n bs => exact .ite (fun _ => .ud) fun _ => .refused

end Gives

theorem decodeVex_gives (m : Mode) (pol : SaeLenPolicy) (p67 : Bool) (bs : List Byte) :
    (decodeVex m p67 bs).Gives (DecodedFrom m pol p67 (0xC4#8 :: bs)) := by
  match bs with
  | [] => exact .truncated
  | [_] | [_, _] | [_, _, _] => exact .unlessRefused fun _ => .truncated
  | b1 :: b2 :: op :: modrm :: bs =>
    refine .unlessRefused fun hold => .unlessRefused fun hrow => .unlessRefused fun hB => ?_
    simp only [Bool.or_eq_true, bne_iff_ne, not_or, not_not] at hrow
    obtain ⟨⟨hmap, hpp⟩, rfl⟩ := hrow
    have h32 : m = .mode32 → b1.getLsbD 7 = true ∧ b1.getLsbD 6 = true ∧ b1.getLsbD 5 = true := by
      intro hm
      obtain ⟨hr, hx⟩ := stored_of_isOldInstruction (Bool.not_eq_true _ ▸ hold) hm
      exact ⟨hr, hx, by simpa [hm] using hB⟩
    refine .ite (fun hreg => ?reg) fun hmem => ?mem
    case reg =>
      rw [ite_apply]
      exact .instr (decodedFrom_vex hmap hpp h32
        ⟨(Nat.zero_add _).symm, rfl, fun _ hb => decide_eq_true (ofBool_append_lt_eight hb _)⟩)
    case mem =>
      split
      · exact .truncated
      · next a rest' ha =>
        rw [ite_apply]
        exact .instr (decodedFrom_vex hmap hpp h32 (operandRead_of_takeAddr ha))

theorem operandRead_evexMem {x b : Bool} {bs rest : List Byte} {a : AddrForm}
    (h : OperandRead x b bs rest a.size a.wf a.low8) (bBit : Bool) :
    OperandRead x b bs rest (EvexSrc.size (if bBit then .memB a else .mem a))
      (EvexSrc.wf (if bBit then .memB a else .mem a)) (EvexSrc.low8 (if bBit then .memB a else .mem a)) := by
  cases bBit <;> exact h

theorem operandRead_evexMem512 {x b : Bool} {bs rest : List Byte} {a : AddrForm}
    (h : OperandRead x b bs rest a.size a.wf a.low8) (bBit : Bool) :
    OperandRead x b bs rest (EvexSrc512.size (if bBit then .memB a else .mem a))
      (EvexSrc512.wf (if bBit then .memB a else .mem a)) (EvexSrc512.low8 (if bBit then .memB a else .mem a)) := by
  cases bBit <;> exact h

theorem decodeEvex_gives (m : Mode) (pol : SaeLenPolicy) (p67 : Bool) (bs : List Byte) :
    (decodeEvex m pol p67 bs).Gives (DecodedFrom m pol p67 (0x62#8 :: bs)) := by
  match bs with
  | [] => exact .truncated
  | [_] | [_, _] | [_, _, _] | [_, _, _, _] => exact .unlessRefused fun _ => .truncated
  | p0 :: p1 :: p2 :: op :: modrm :: bs =>
    refine .unlessRefused fun hold => .unlessRefused fun hbits => .unlessRefused fun hrow =>
      .unlessRefused fun hsaeLen => .unlessRefused fun hlen3 => .unlessRefused fun h32 => ?_
    simp only [Bool.or_eq_true, Bool.and_eq_true, bne_iff_ne, not_or, not_and_or, not_not] at hrow
    obtain ⟨⟨hmap, hpp⟩, rfl⟩ := hrow
    have hhead : EvexHead m p0 p1 p2 := by
      simp only [Bool.or_eq_true, Bool.not_eq_true', not_or, Bool.not_eq_true, Bool.not_eq_false] at hbits
      refine ⟨hbits.1, hmap, hbits.2, hpp, stored_of_isOldInstruction (Bool.not_eq_true _ ▸ hold), fun hm hvp hz => ?_⟩
      have hzmask : (p2.getLsbD 7 && p2.extractLsb' 0 3 == 0#3) = false := by simpa [imp_iff_not_or] using hz
      rw [hm, hvp, hzmask] at h32
      simpa using h32
    refine .ite (fun hreg => ?reg) fun hmem => ?mem
    case reg =>
      have hsrc : OperandRead (!p0.getLsbD 6) (!p0.getLsbD 5) bs bs 0 true _ :=
        ⟨(Nat.zero_add _).symm, rfl, fun hx hb =>
          decide_eq_true (ofBool_append_append_lt_eight hx hb (modrm.extractLsb' 0 3))⟩
      refine .ite (fun hsae => .instr (decodedFrom_evexRow512 hhead hsrc fun hpol => ?_)) fun hsae =>
        .ite (fun hlen => .instr (decodedFrom_evexRow512 hhead hsrc fun _ => beq_iff_eq.1 hlen)) fun hlen =>
          .instr (decodedFrom_evexRow hhead hsrc (beq_iff_eq.not.1 hlen) ?_)
      · rw [hsae, hpol] at hsaeLen
        simpa using hsaeLen
      · rw [Bool.eq_false_of_not_eq_true hsae] at hlen3
        simpa using hlen3
    case mem =>
      split
      · exact .truncated
      · next a rest' ha =>
        have hsrc := operandRead_of_takeAddr ha
        refine .ite (fun hlen => .instr (decodedFrom_evexRow512 hhead (operandRead_evexMem512 hsrc _)
          fun _ => beq_iff_eq.1 hlen)) fun hlen => .instr (decodedFrom_evexRow hhead (operandRead_evexMem hsrc _)
            (beq_iff_eq.not.1 hlen) ?_)
        simpa [hmem] using hlen3

theorem decodeBody_gives (m : Mode) (pol : SaeLenPolicy) (p67 : Bool) (bs : List Byte) :
    (decodeBody m pol p67 bs).Gives (DecodedFrom m pol p67 bs) := by
  cases bs with
  | nil => exact .truncated
  | cons b bs =>
    refine .unlessRefused fun _ => .ite (fun _ => afterUdPrefix_gives m bs) fun _ =>
      .ite (fun hvex => ?vex) fun _ => .ite (fun hevex => ?evex) fun _ => .refused
    case vex => rw [beq_iff_eq.1 hvex]; exact decodeVex_gives m pol p67 bs
    case evex => rw [beq_iff_eq.1 hevex]; exact decodeEvex_gives m pol p67 bs

/-- What the decoder gives, it has read behind an optional 67H, which Mode32 does not admit (R62). -/
theorem decode_gives {m : Mode} {pol : SaeLenPolicy} {bs rest : List Byte} {i : Instr}
    (h : decode m pol bs = .instr i rest) :
    ∃ body, bs = prefix67 i.p67 ++ body ∧ (m = .mode32 → i.p67 = false) ∧ DecodedFrom m pol i.p67 body i rest := by
  cases bs with
  | nil => cases h
  | cons b bs =>
    unfold decode at h
    dsimp only at h
    split at h
    · next h67 =>
      cases m with
      | mode32 => cases h
      | mode64 =>
        have hread := decodeBody_gives .mode64 pol true bs i rest h
        refine ⟨bs, ?_, nofun, hread.has67 ▸ hread⟩
        rw [hread.has67, beq_iff_eq.1 h67]
        rfl
    · have hread := decodeBody_gives m pol false (b :: bs) i rest h
      exact ⟨b :: bs, by rw [hread.has67]; rfl, fun _ => hread.has67, hread.has67 ▸ hread⟩

/-! ### The obligations -/

theorem prefix67_length (p67 : Bool) : (prefix67 p67).length = p67.toNat := by cases p67 <;> rfl

theorem Instr.length_bounds (i : Instr) : 5 ≤ i.length ∧ i.length ≤ 12 := by
  cases i with
  | vcvtph2psVex128 x | vcvtph2psVex256 x => exact x.length_bounds
  | vcvtph2psEvex128 x | vcvtph2psEvex256 x | vcvtph2psxEvex128 x | vcvtph2psxEvex256 x =>
    exact evexLength_bounds _ x.src.size_le
  | vcvtph2psEvex512 x | vcvtph2psxEvex512 x => exact evexLength_bounds _ x.src.size_le

/-- Settles O3: an optional 67H, and the bytes read behind it. -/
theorem decodeConsumesTheLength : Obligations.DecodeConsumesTheLength := by
  intro m pol bs i rest h
  obtain ⟨body, rfl, -, hread⟩ := decode_gives h
  refine ⟨?_, i.length_bounds⟩
  rw [List.length_append, prefix67_length, hread.length]

/-- Settles O4: in Mode32 the bits R, X, B and R' are stored as 1, once `V'` and `z` are right. -/
theorem decodedInstructionsAreWellFormed : Obligations.DecodedInstructionsAreWellFormed := by
  intro m pol bs i rest h
  obtain ⟨body, -, h67, hread⟩ := decode_gives h
  refine ⟨hread.wf, fun hvp hz => ?_⟩
  cases m with
  | mode64 => rw [Instr.wfIn, hread.wf]; rfl
  | mode32 => rw [Instr.wfIn, hread.wf, h67 rfl, hread.low8 rfl hvp hz]; rfl

/-- Settles O6: under `require_10` each row's fixed bits have been checked. -/
theorem decodedBytesMatchTheirRow : Obligations.DecodedBytesMatchTheirRow := by
  intro m bs i rest h
  obtain ⟨body, rfl, -, hread⟩ := decode_gives h
  have hrow := hread.row rfl
  cases hp : i.p67 with
  | false => exact ⟨nofun, hrow⟩
  | true => exact ⟨fun _ => rfl, hrow⟩

end Sys2Proof
end

section
/-! SUPPORT. The conversion class by class (R100 to R105): values of finite inputs, results of NaNs, and the source read
back from its result (P1 to P5 of R112). -/

namespace Sys2Proof.Machine

/-! ### Finite inputs (P1, P2) -/

theorem cvtH2s_of_finite (c : CpuConfig) {h : Half} (he : halfExp h ≠ 31#5) : cvtH2s c h = cvtH2sDefault h :=
  cvtH2s_of_not_nan (by simp [halfIsNaN, he])

theorem singleValue_mkSingle_zero (s : BitVec 1) : singleValue (mkSingle s 0#8 0#23) = 0 := by
  simp [singleValue]

theorem singleValue_mkSingle {e : BitVec 8} (he : e ≠ 0#8) (s : BitVec 1) (f : BitVec 23) :
    singleValue (mkSingle s e f) = (-1) ^ s.toNat * (2 : ℚ) ^ ((e.toNat : ℤ) - 127) * (1 + f.toNat / 2 ^ 23) := by
  simp [singleValue, he]

theorem singleIsNormalOrZero_mkSingle {e : BitVec 8} (he : 1 ≤ e.toNat ∧ e.toNat ≤ 254) (s : BitVec 1) (f : BitVec 23) :
    singleIsNormalOrZero (mkSingle s e f) = true := by
  simp [singleIsNormalOrZero, he.1, he.2]

/-- The biased exponent of a normal FP16 value. -/
theorem halfExp_bounds {h : Half} (he : halfExp h ≠ 0#5) (he' : halfExp h ≠ 31#5) :
    1 ≤ (halfExp h).toNat ∧ (halfExp h).toNat ≤ 30 := by
  have h0 : (halfExp h).toNat ≠ 0 := fun h0 => he (BitVec.eq_of_toNat_eq h0)
  have h31 : (halfExp h).toNat ≠ 31 := fun h31 => he' (BitVec.eq_of_toNat_eq h31)
  have hlt := (halfExp h).isLt
  omega

theorem ofNat_add_toNat {n k : Nat} (h : n + k < 256) : (BitVec.ofNat 8 (n + k)).toNat = n + k := by
  rw [BitVec.toNat_ofNat, Nat.mod_eq_of_lt h]

/-- An FP16 fraction in the high bits of an FP32 one. -/
theorem toNat_frac_append (f : BitVec 10) : (f ++ 0#13).toNat = f.toNat * 2 ^ 13 := by
  rw [BitVec.toNat_append]
  simp [Nat.shiftLeft_eq]

/-- The fraction of a denormal shifted up: its highest set bit becomes the hidden bit of a normal FP32 value (R104). -/
theorem toNat_denormal_frac {f : BitVec 10} (hf : f ≠ 0#10) :
    2 ^ 23 + (f.setWidth 23 <<< (23 - topBit f 9)).toNat = f.toNat * 2 ^ (23 - topBit f 9) := by
  obtain ⟨hp, hlow, hhigh⟩ := topBit_spec hf
  generalize topBit f 9 = p at *
  have hpow : 2 ^ p * 2 ^ (23 - p) = 2 ^ 23 := by rw [← pow_add]; congr 1; omega
  have hge : 2 ^ 23 ≤ f.toNat * 2 ^ (23 - p) := hpow ▸ Nat.mul_le_mul_right _ hlow
  have hlt : f.toNat * 2 ^ (23 - p) < 2 ^ 23 + 2 ^ 23 := by
    calc f.toNat * 2 ^ (23 - p) < 2 ^ (p + 1) * 2 ^ (23 - p) := Nat.mul_lt_mul_of_pos_right hhigh (Nat.two_pow_pos _)
      _ = 2 ^ 23 + 2 ^ 23 := by rw [pow_succ, mul_right_comm, hpow, mul_two]
  rw [BitVec.toNat_shiftLeft, BitVec.toNat_setWidth_of_le (by decide), Nat.shiftLeft_eq, Nat.mod_eq_sub_mod hge,
    Nat.mod_eq_of_lt (by omega)]
  omega


theorem halfValue_of_zero {h : Half} (he : halfExp h = 0#5) (hf : halfFrac h = 0#10) : halfValue h = 0 := by
  simp [halfValue, he, hf]

theorem halfValue_of_denormal {h : Half} (he : halfExp h = 0#5) :
    halfValue h = (-1) ^ (halfSign h).toNat * ((halfFrac h).toNat / 2 ^ 24) := by
  rw [halfValue, if_pos he]
  norm_num
  ring

theorem singleValue_of_denormal {h : Half} (he : halfExp h = 0#5) (hf : halfFrac h ≠ 0#10) :
    singleValue (cvtH2sDefault h).r = halfValue h := by
  obtain ⟨hp, -, -⟩ := topBit_spec hf
  have hexp := ofNat_add_toNat (n := topBit (halfFrac h) 9) (k := 103) (by omega)
  have hfrac := congrArg (Nat.cast (R := ℚ)) (toNat_denormal_frac hf)
  have hne : BitVec.ofNat 8 (topBit (halfFrac h) 9 + 103) ≠ 0#8 := fun h0 => by simp [h0] at hexp
  rw [cvtH2sDefault_denormal he hf, singleValue_mkSingle hne, hexp, halfValue_of_denormal he]
  generalize topBit (halfFrac h) 9 = p at *
  simp only [Nat.cast_add, Nat.cast_mul, Nat.cast_pow, Nat.cast_ofNat] at hfrac
  rw [mul_assoc, one_add_div (by norm_num), hfrac]
  have hpow : (2 : ℚ) ^ (((p + 103 : ℕ) : ℤ) - 127) * 2 ^ (23 - p) = 2 ^ (-1 : ℤ) := by
    rw [← zpow_natCast, ← zpow_add₀ two_ne_zero]
    congr 1
    omega
  calc _ = (-1 : ℚ) ^ (halfSign h).toNat *
        ((2 ^ (((p + 103 : ℕ) : ℤ) - 127) * 2 ^ (23 - p)) * ((halfFrac h).toNat / 2 ^ 23)) := by ring
    _ = _ := by rw [hpow]; ring

theorem singleValue_of_normal {h : Half} (he : halfExp h ≠ 0#5) (he' : halfExp h ≠ 31#5) :
    singleValue (cvtH2sDefault h).r = halfValue h := by
  obtain ⟨-, hle⟩ := halfExp_bounds he he'
  have hexp := ofNat_add_toNat (n := (halfExp h).toNat) (k := 112) (by omega)
  have hne : BitVec.ofNat 8 ((halfExp h).toNat + 112) ≠ 0#8 := fun h0 => by simp [h0] at hexp
  rw [cvtH2sDefault_normal he he', singleValue_mkSingle hne, hexp, toNat_frac_append, halfValue, if_neg he, ← mul_assoc]
  have hbias : (((halfExp h).toNat + 112 : ℕ) : ℤ) - 127 = (halfExp h).toNat - 15 := by omega
  rw [hbias]
  congr 2
  push_cast
  ring

/-- Settles O18: zeros, denormals and normal numbers, each at the fields that R104 gives it. -/
theorem conversionIsExactOnFiniteValues : Obligations.ConversionIsExactOnFiniteValues := by
  intro c h hfin
  rw [cvtH2s_den, cvtH2s_inv, cvtH2s_of_finite c hfin]
  have hinv : halfIsSignalingNaN h = false := by simp [halfIsSignalingNaN, hfin]
  by_cases he : halfExp h = 0#5
  · by_cases hf : halfFrac h = 0#10
    · refine ⟨?_, ?_, ?_, rfl, hinv⟩ <;> rw [cvtH2sDefault_zero he hf]
      · rw [singleValue_mkSingle_zero, halfValue_of_zero he hf]
      · exact singleSign_mkSingle ..
      · simp [singleIsNormalOrZero]
    · refine ⟨singleValue_of_denormal he hf, ?_, ?_, rfl, hinv⟩ <;> rw [cvtH2sDefault_denormal he hf]
      · exact singleSign_mkSingle ..
      · obtain ⟨hp, -, -⟩ := topBit_spec hf
        exact singleIsNormalOrZero_mkSingle (by rw [ofNat_add_toNat (by omega)]; omega) ..
  · refine ⟨singleValue_of_normal he hfin, ?_, ?_, rfl, hinv⟩ <;> rw [cvtH2sDefault_normal he hfin]
    · exact singleSign_mkSingle ..
    · obtain ⟨-, hle⟩ := halfExp_bounds he hfin
      exact singleIsNormalOrZero_mkSingle (by rw [ofNat_add_toNat (by omega)]; omega) ..

/-! ### Infinities and NaNs (P3, P4) -/

/-- A fraction with its top bit set is that bit and the rest. -/
theorem one_append_extractLsb' {n : Nat} {f : BitVec (1 + n)} (h : f.getLsbD n = true) :
    1#1 ++ f.extractLsb' 0 n = f := by
  apply BitVec.eq_of_getLsbD_eq
  intro b hb
  rw [BitVec.getLsbD_append]
  split
  · next hlt => simp [hlt]
  · next hge =>
    obtain rfl : b = n := by omega
    simp [h]

theorem halfIsNaN_iff {h : Half} : halfIsNaN h = true ↔ halfExp h = 31#5 ∧ halfFrac h ≠ 0#10 := by
  simp [halfIsNaN]

/-- The default quiet NaN of a NaN of either kind: its sign, and its payload in the high fraction bits (R104). -/
def defaultNaN (h : Half) : QuietNaN := { sign := halfSign h, payload := (halfFrac h).extractLsb' 0 9 ++ 0#13 }

theorem cvtH2sDefault_nan_r {h : Half} (he : halfExp h = 31#5) (hf : halfFrac h ≠ 0#10) :
    (cvtH2sDefault h).r = quietSingle (defaultNaN h) := by
  have hassoc := BitVec.append_assoc (x₁ := 1#1) (x₂ := (halfFrac h).extractLsb' 0 9) (x₃ := 0#13)
  rw [BitVec.cast_eq] at hassoc
  rw [quietSingle, defaultNaN, ← hassoc]
  cases hq : (halfFrac h).getLsbD 9
  · rw [cvtH2sDefault_signalingNaN he hf hq]
  · rw [cvtH2sDefault_quietNaN he hf hq, one_append_extractLsb' (n := 9) hq]

@[simp] theorem singleExp_quietSingle (q : QuietNaN) : singleExp (quietSingle q) = 255#8 := singleExp_mkSingle ..

@[simp] theorem singleSign_quietSingle (q : QuietNaN) : singleSign (quietSingle q) = q.sign := singleSign_mkSingle ..

@[simp] theorem singleFrac_quietSingle (q : QuietNaN) : singleFrac (quietSingle q) = 1#1 ++ q.payload :=
  singleFrac_mkSingle ..

/-- The result on a NaN is a quiet NaN, the default one where the configuration does not name the input. -/
theorem cvtH2s_nan_r (c : CpuConfig) {h : Half} (he : halfExp h = 31#5) (hf : halfFrac h ≠ 0#10) :
    (cvtH2s c h).r = quietSingle ((c.nanResults.lookup h).getD (defaultNaN h)) := by
  cases hl : c.nanResults.lookup h with
  | none => rw [cvtH2s_of_lookup_none hl, cvtH2sDefault_nan_r he hf]; rfl
  | some q => rw [cvtH2s_of_lookup_some (halfIsNaN_iff.2 ⟨he, hf⟩) hl]; rfl

/-- The fraction of the default quiet NaN below the quiet bit. -/
theorem getLsbD_frac_defaultNaN (h : Half) {b : Nat} (hb : b < 22) :
    (1#1 ++ (defaultNaN h).payload).getLsbD b = (decide (13 ≤ b) && (halfFrac h).getLsbD (b - 13)) := by
  rw [BitVec.getLsbD_append, if_pos hb, defaultNaN, BitVec.getLsbD_append]
  by_cases h13 : b < 13
  · simp [h13]
  · have h9 : b - 13 < 9 := by omega
    simp [h13, h9, Nat.not_lt.1 h13]

/-- Settles O19: an infinity has one result, and a NaN its configured one or the default. -/
theorem conversionOfInfinitiesAndNaNs : Obligations.ConversionOfInfinitiesAndNaNs := by
  intro c h he v
  have hinv : v.inv = halfIsSignalingNaN h := cvtH2s_inv c h
  have hden : v.den = false := (cvtH2s_den c h).trans (by simp [halfIsDenormal, he])
  by_cases hf : halfFrac h = 0#10
  · have hr : v.r = mkSingle (halfSign h) 255#8 0#23 := by
      rw [show v = cvtH2sDefault h from cvtH2s_of_not_nan (by simp [halfIsNaN, hf]), cvtH2sDefault_infinity he hf]
    rw [hr]
    exact ⟨singleExp_mkSingle .., hden, hinv, fun _ => ⟨singleSign_mkSingle .., singleFrac_mkSingle ..⟩,
      fun hf' => absurd hf hf'⟩
  · rw [show v.r = _ from cvtH2s_nan_r c he hf]
    refine ⟨singleExp_quietSingle _, hden, hinv, fun hf' => absurd hf' hf,
      fun _ => ⟨singleIsQuietNaN_quietSingle _, fun hl => ?_⟩⟩
    rw [hl, singleSign_quietSingle, singleFrac_quietSingle]
    exact ⟨rfl, fun b hb => getLsbD_frac_defaultNaN h hb⟩

/-! ### Every conversion with P1 to P5 (R112) -/

theorem mkSingle_fields (r : Single) : mkSingle (singleSign r) (singleExp r) (singleFrac r) = r := by
  rw [mkSingle, singleSign, singleExp, singleFrac,
    BitVec.extractLsb'_append_extractLsb'_eq_extractLsb' (start₂ := 31) (start₁ := 23) rfl,
    BitVec.extractLsb'_append_extractLsb'_eq_extractLsb' (start₂ := 23) (start₁ := 0) (len₁ := 23) rfl]
  exact BitVec.extractLsb'_eq_self

/-- The quiet NaN that a pattern holds. -/
def quietNaNOf (r : Single) : QuietNaN := { sign := singleSign r, payload := (singleFrac r).extractLsb' 0 22 }

theorem quietSingle_quietNaNOf {r : Single} (h : singleIsQuietNaN r = true) : quietSingle (quietNaNOf r) = r := by
  simp only [singleIsQuietNaN, Bool.and_eq_true, beq_iff_eq] at h
  obtain ⟨hexp, hquiet⟩ := h
  rw [quietSingle, quietNaNOf, one_append_extractLsb' (n := 22) hquiet, ← hexp, mkSingle_fields]

/-- A table can give every input its own result: there are finitely many inputs. -/
theorem exists_table (q : Half → QuietNaN) : ∃ table : List (Half × QuietNaN), ∀ h, table.lookup h = some (q h) :=
  ⟨(FinEnum.toList Half).map fun h => (h, q h), fun h => List.lookup_graph q (FinEnum.mem_toList h)⟩

/-- Settles O20: the table of what `g` gives on NaNs. -/
theorem everyAdmissibleConversionIsConfigurable : Obligations.EveryAdmissibleConversionIsConfigurable := by
  intro c g hr hquiet hsignals
  obtain ⟨table, htable⟩ := exists_table fun h => quietNaNOf (g h).r
  refine ⟨table, fun h => ?_⟩
  obtain ⟨hinv, hden⟩ := hsignals h
  have hres : (cvtH2s { c with nanResults := table } h).r = (g h).r := by
    cases hn : halfIsNaN h
    · rw [hr h hn, cvtH2s_of_not_nan hn, cvtH2s_of_not_nan hn]
    · rw [cvtH2s_of_lookup_some hn (htable h)]
      exact quietSingle_quietNaNOf (hquiet h hn)
  rw [Converted.mk.injEq]
  exact ⟨hres, (cvtH2s_inv ..).trans hinv.symm, (cvtH2s_den ..).trans hden.symm⟩

/-! ### The source read back from the result -/

/-- The exponent field of the FP16 value that a result comes from (R104). -/
def sourceExp (r : Single) : BitVec 5 :=
  if singleExp r = 255#8 then 31#5 else BitVec.ofNat 5 ((singleExp r).toNat - 112)

/-- Its fraction field. A result with biased exponent 103 to 112 comes from a denormal, whose highest set bit has become
the hidden bit (R104). -/
def sourceFrac (r : Single) : BitVec 10 :=
  if 112 < (singleExp r).toNat then (singleFrac r).extractLsb' 13 10
  else BitVec.ofNat 10 ((2 ^ 23 + (singleFrac r).toNat) / 2 ^ (126 - (singleExp r).toNat))

/-- An FP16 value has the fields that are read back from `r`. -/
structure ReadBack (h : Half) (r : Single) : Prop where
  sign : halfSign h = singleSign r
  exp  : halfExp h = sourceExp r
  frac : halfFrac h = sourceFrac r

theorem extractLsb'_frac_append (f : BitVec 10) : (f ++ 0#13).extractLsb' 13 10 = f :=
  BitVec.extractLsb'_append_eq_left

theorem readBack_zero {h : Half} (he : halfExp h = 0#5) (hf : halfFrac h = 0#10) :
    ReadBack h (cvtH2sDefault h).r := by
  rw [cvtH2sDefault_zero he hf]
  exact ⟨by simp, by simp [sourceExp, he], by simp [sourceFrac, hf]⟩

theorem readBack_denormal {h : Half} (he : halfExp h = 0#5) (hf : halfFrac h ≠ 0#10) :
    ReadBack h (cvtH2sDefault h).r := by
  obtain ⟨hp, -, -⟩ := topBit_spec hf
  have hexp := ofNat_add_toNat (n := topBit (halfFrac h) 9) (k := 103) (by omega)
  have hne : BitVec.ofNat 8 (topBit (halfFrac h) 9 + 103) ≠ 255#8 := fun h0 => by simp [h0] at hexp; omega
  rw [cvtH2sDefault_denormal he hf]
  refine ⟨(singleSign_mkSingle ..).symm, ?_, ?_⟩
  · rw [sourceExp, singleExp_mkSingle, if_neg hne, hexp, he, Nat.sub_eq_zero_of_le (by omega)]
  · have hshift : 126 - (topBit (halfFrac h) 9 + 103) = 23 - topBit (halfFrac h) 9 := by omega
    rw [sourceFrac, singleExp_mkSingle, singleFrac_mkSingle, hexp, if_neg (by omega), hshift, toNat_denormal_frac hf,
      Nat.mul_div_cancel _ (Nat.two_pow_pos _), BitVec.ofNat_toNat, BitVec.setWidth_eq]

theorem readBack_normal {h : Half} (he : halfExp h ≠ 0#5) (he' : halfExp h ≠ 31#5) :
    ReadBack h (cvtH2sDefault h).r := by
  obtain ⟨hge, hle⟩ := halfExp_bounds he he'
  have hexp := ofNat_add_toNat (n := (halfExp h).toNat) (k := 112) (by omega)
  have hne : BitVec.ofNat 8 ((halfExp h).toNat + 112) ≠ 255#8 := fun h0 => by simp [h0] at hexp; omega
  rw [cvtH2sDefault_normal he he']
  refine ⟨(singleSign_mkSingle ..).symm, ?_, ?_⟩
  · rw [sourceExp, singleExp_mkSingle, if_neg hne, hexp, Nat.add_sub_cancel, BitVec.ofNat_toNat, BitVec.setWidth_eq]
  · rw [sourceFrac, singleExp_mkSingle, singleFrac_mkSingle, hexp, if_pos (by omega), extractLsb'_frac_append]

theorem readBack_infinity {h : Half} (he : halfExp h = 31#5) (hf : halfFrac h = 0#10) :
    ReadBack h (cvtH2sDefault h).r := by
  rw [cvtH2sDefault_infinity he hf]
  exact ⟨by simp, by simp [sourceExp, he], by simp [sourceFrac, hf]⟩

theorem readBack_quietNaN {h : Half} (he : halfExp h = 31#5) (hf : halfFrac h ≠ 0#10)
    (hq : (halfFrac h).getLsbD 9 = true) : ReadBack h (cvtH2sDefault h).r := by
  rw [cvtH2sDefault_quietNaN he hf hq]
  refine ⟨(singleSign_mkSingle ..).symm, ?_, ?_⟩
  · rw [sourceExp, singleExp_mkSingle, if_pos rfl, he]
  · rw [sourceFrac, singleExp_mkSingle, singleFrac_mkSingle, if_pos (by decide), extractLsb'_frac_append]

/-- Every source but a signaling NaN is read back from its default result. -/
theorem readBack_cvtH2sDefault {h : Half} (hs : halfIsSignalingNaN h = false) : ReadBack h (cvtH2sDefault h).r := by
  by_cases he : halfExp h = 31#5
  · by_cases hf : halfFrac h = 0#10
    · exact readBack_infinity he hf
    · exact readBack_quietNaN he hf (by simpa [halfIsSignalingNaN, he, hf] using hs)
  · by_cases he0 : halfExp h = 0#5
    · by_cases hf : halfFrac h = 0#10
      · exact readBack_zero he0 hf
      · exact readBack_denormal he0 hf
    · exact readBack_normal he0 he

/-- Where the configuration names no NaN, the conversion is the default. -/
theorem cvtH2s_eq_default {c : CpuConfig} {h : Half} (hl : halfIsNaN h = true → c.nanResults.lookup h = none) :
    cvtH2s c h = cvtH2sDefault h := by
  cases hn : halfIsNaN h
  · exact cvtH2s_of_not_nan hn
  · exact cvtH2s_of_lookup_none (hl hn)

/-- Settles O21: both elements are read back from the same pattern. -/
theorem conversionLosesNothing : Obligations.ConversionLosesNothing := by
  intro c h h' hs hs' hl hl' hr
  rw [cvtH2s_eq_default hl, cvtH2s_eq_default hl'] at hr
  have hback := readBack_cvtH2sDefault hs
  have hback' := readBack_cvtH2sDefault hs'
  rw [← hr] at hback'
  exact half_ext (hback.sign.trans hback'.sign.symm) (hback.exp.trans hback'.exp.symm)
    (hback.frac.trans hback'.frac.symm)

end Sys2Proof.Machine
end

section
/-! SUPPORT. Completion of the VEX forms from a register and of the `{sae}` forms (R110, R120, R121, R134, R145), the
sticky flags (R107, R108), and SIMD floating-point exceptions and precise faults (R109, R158, R162, R165). -/

namespace Sys2Proof.Machine

/-! ### Completion -/

/-- Settles O23: a VEX form has no mask, and signals Invalid only. -/
theorem vexRegisterFormsComplete : Obligations.VexRegisterFormsComplete := by
  intro s l256 p67 dst r i kl elem inv hwf he hinv
  have hops := operands_vexInstr l256 { p67 := p67, dst := dst, w := false, vvvv := 15#4, src := .reg r }
  have hreg : (Instr.operands i).src = .reg (r.setWidth 5) false := by rw [hops]; rfl
  have hmask : (Instr.operands i).aaa = 0#3 := by rw [hops]; rfl
  have hdst : (Instr.operands i).dst = dst.setWidth 5 := by rw [hops]; rfl
  have hpsx : (Instr.form i).psx = false := by cases l256 <;> rfl
  have hlanes : (Instr.form i).vl.lanes = kl := by cases l256 <;> rfl
  have hlen : i.length = if p67 then 6 else 5 := by rw [← operands_len, hops]; cases p67 <;> rfl
  have hlegal : Legal i s := by
    rw [Legal, Spellable, hops]
    exact ⟨⟨hwf, rfl, nofun⟩, rfl, rfl, nofun⟩
  have h := exec_completes hlegal he (readSource_reg hreg) (by rw [Operands.sae, hreg])
  rw [hmask, laneSelected_zero, resultLane_of_aaa_eq_zero hmask, hlanes, hpsx, hdst, hlen] at h
  exact h hinv nofun

/-- A legal instruction of an enabled form completes with `{sae}`, whatever it signals, and sets no flag (R110). -/
theorem exec_completes_of_sae {i : Instr} {s : State} {r : BitVec 5} (hl : Legal i s) (he : Enabled (Instr.form i) s)
    (hreg : (Instr.operands i).src = .reg r true) :
    ∃ t, exec i s = .next t ∧
      Wrote s t (Instr.operands i).dst (Instr.form i).vl.lanes
        (resultLane (Instr.operands i) s (halfLane (s.readVec r))) false false i.length ∧
      FrameKept s t (Instr.operands i).dst := by
  have hsae : (Instr.operands i).sae = true := by rw [Operands.sae, hreg]
  refine ⟨_, exec_next_iff.2 ⟨gate_eq_none hl he, _, readSource_reg hreg, .inl hsae, rfl⟩, ?_, commit_frame ..⟩
  have hwrote := commit_wrote (o := Instr.operands i) (src := halfLane (s.readVec r))
    (lanes_fit he.1 (form_vex_ne_v512 i))
  simpa only [hsae, Bool.not_true, Bool.false_and, operands_len] using hwrote

/-- Settles O30, for each mnemonic. -/
theorem saeFormsCompleteWithoutFlags : Obligations.SaeFormsCompleteWithoutFlags := by
  intro s psx p67 z dst r aaa x i sel hwf hz he
  have hops : Instr.operands i = EvexOps.operands512 x := by cases psx <;> rfl
  have hlanes : (Instr.form i).vl.lanes = 16 := by cases psx <;> rfl
  have hlen : i.length = if p67 then 7 else 6 := by rw [← operands_len, hops]; cases p67 <;> rfl
  have hlegal : Legal i s := by
    rw [Legal, Spellable, hops]
    exact ⟨⟨hwf, rfl, hz⟩, rfl, rfl, nofun⟩
  have h := exec_completes_of_sae hlegal he (r := r) (by rw [hops]; rfl)
  rw [hops, hlanes, hlen] at h
  exact h

/-! ### The sticky flags (R107, R108) -/

/-- Settles O48: the sticky flags are OR-ed in, and VCVTPH2PS signals no Denormal. -/
theorem onlyStickyFlagsOfMxcsrChange : Obligations.OnlyStickyFlagsOfMxcsrChange := by
  intro s t i h b hb
  obtain ⟨src, rfl⟩ := exec_next_eq_commit h
  rw [commit_mxcsr] at hb
  split at hb
  · exact absurd rfl hb
  · rw [stickyFlags_getLsbD, signals_eq] at hb
    have hflag : s.mxcsr.getLsbD b = false := by
      cases hs : s.mxcsr.getLsbD b
      · rfl
      · simp [hs] at hb
    refine ⟨hflag, ?_⟩
    rw [hflag] at hb
    rcases b with _ | _ | b
    · exact .inl rfl
    · have hden : ((Instr.form i).psx &&
          signalsDenormal (laneSelected s (Instr.operands i).aaa) (Instr.form i).vl.lanes src) = true := by
        simpa using hb
      exact .inr ⟨rfl, (Bool.and_eq_true_iff.1 hden).1⟩
    · simp at hb

/-! ### Faults -/

/-- When a form faults: at the checks, at the operand read, or on an unmasked signal without `{sae}`, in the order of
R161. -/
theorem exec_fault_iff {i : Instr} {s : State} {x : Fault} :
    exec i s = .fault x ↔
      gate (Instr.form i) (Instr.operands i) s = some (.fault x) ∨
      gate (Instr.form i) (Instr.operands i) s = none ∧
        (readSource (Instr.form i) (Instr.operands i) s = .error (.fault x) ∨
          ∃ src, readSource (Instr.form i) (Instr.operands i) s = .ok src ∧
            ((Instr.operands i).sae = false ∧ s.unmasked (signals (Instr.form i) (Instr.operands i) s src) = true) ∧
            x = s.simdFault (Instr.form i)) := by
  rw [exec_eq_convertForm, convertForm]
  generalize Instr.form i = f, Instr.operands i = o
  cases hg : gate f o s with
  | some st => cases st <;> simp [Stop.outcome]
  | none =>
    cases hr : readSource f o s with
    | error st => cases st <;> simp [Stop.outcome]
    | ok src =>
      by_cases hu : o.sae = false ∧ s.unmasked (signals f o s src) = true
      · simpa [hu] using eq_comm
      · have hu' : (!o.sae && s.unmasked (signals f o s src)) = false := by simpa using hu
        simp [hu, hu']

/-- A fault of a SIMD floating-point exception (R109, R158). -/
def Fault.isSimd : Fault → Bool
  | .xm _ | .udSimd _ => true
  | .ud | .nm | .ss | .gp | .pf _ _ | .ac => false

theorem isSimd_of_gate_fault {f : Form} {o : Operands} {s : State} {x : Fault}
    (h : gate f o s = some (.fault x)) : x.isSimd = false := by
  rcases gate_fault h with rfl | rfl <;> rfl

/-- The oracle answers no SIMD floating-point exception. -/
theorem isSimd_of_oracleFault {s : State} {f : Form} {a n : Nat} {x : Fault} (h : oracleFault s f a n = some x) :
    x.isSimd = false := by
  unfold oracleFault at h
  split at h
  · next y hseg =>
    obtain ⟨z, -, hz⟩ := List.exists_of_findSome?_eq_some (hseg.trans h)
    unfold segFaultAt at hz
    split at hz <;> cases hz <;> rfl
  · split at h
    · next y hpage =>
      obtain ⟨z, -, hz⟩ := List.exists_of_findSome?_eq_some (hpage.trans h)
      unfold pageFaultAt at hz
      (repeat' split at hz) <;> cases hz <;> rfl
    · obtain ⟨rfl, -⟩ := alignFault_eq_some.1 h
      rfl

theorem isSimd_of_readSource_fault {f : Form} {o : Operands} {s : State} {x : Fault}
    (h : readSource f o s = .error (.fault x)) : x.isSimd = false := by
  obtain ⟨a, b, -, horacle⟩ := readSource_fault h
  exact isSimd_of_oracleFault horacle

/-- A SIMD floating-point exception comes of an unmasked signal alone, of a selected lane's element. -/
theorem unmasked_of_exec_simd_fault {i : Instr} {s : State} {x : Fault} (h : exec i s = .fault x)
    (hx : x.isSimd = true) :
    (∃ src, s.unmasked (signals (Instr.form i) (Instr.operands i) s src) = true) ∧ x = s.simdFault (Instr.form i) := by
  rcases exec_fault_iff.1 h with hgate | ⟨-, hread | ⟨src, -, ⟨-, hu⟩, rfl⟩⟩
  · simp [isSimd_of_gate_fault hgate] at hx
  · simp [isSimd_of_readSource_fault hread] at hx
  · exact ⟨⟨src, hu⟩, rfl⟩

/-- Settles O37: the signal is unmasked, and the fault's flags are the free value of log 5. -/
theorem unmaskedExceptionFaults : Obligations.UnmaskedExceptionFaults := by
  intro s i src f o sel hl he hread hsae hsignal
  have hu : s.unmasked (signals f o s src) = true := by
    rw [State.unmasked, signals_eq]
    rcases hsignal with ⟨hinv, him⟩ | ⟨hpsx, hden, hdm⟩
    · simp [show signalsInvalid (laneSelected s o.aaa) f.vl.lanes src = true from hinv, him]
    · simp [show signalsDenormal (laneSelected s o.aaa) f.vl.lanes src = true from hden, hpsx, hdm]
  exact ⟨Config.simdFaultFlags s f, exec_fault_iff.2 (.inr ⟨gate_eq_none hl he, .inr ⟨src, hread, ⟨hsae, hu⟩, rfl⟩⟩)⟩

/-- No lane, no signal (R108). -/
theorem signals_of_no_lane {f : Form} {o : Operands} {s : State}
    (h : ∀ j, j < f.vl.lanes → laneSelected s o.aaa j = false) (src : Nat → Half) :
    signals f o s src = { inv := false, den := false } := by
  have hany : ∀ p : Half → Bool, ((List.range f.vl.lanes).any fun j => laneSelected s o.aaa j && p (src j)) = false :=
    fun p => by simp +contextual [h]
  rw [signals_eq, signalsInvalid, signalsDenormal, hany, hany, Bool.and_false]

/-- Settles O55: without a signal nothing is unmasked, and no flag is OR-ed in. -/
theorem emptyMaskSignalsNothing : Obligations.EmptyMaskSignalsNothing := by
  intro s i hnone
  have hsignals := signals_of_no_lane (o := Instr.operands i) hnone
  have hno : ∀ x : Fault, x.isSimd = true → exec i s ≠ .fault x := fun x hx h => by
    obtain ⟨⟨src, hu⟩, -⟩ := unmasked_of_exec_simd_fault h hx
    rw [hsignals] at hu
    cases hu
  refine ⟨fun m => ⟨hno _ rfl, hno _ rfl⟩, fun t h => ?_⟩
  obtain ⟨src, rfl⟩ := exec_next_eq_commit h
  rw [commit_mxcsr, hsignals]
  simp [stickyFlags]

/-! ### Precise faults (R165) -/

theorem exec_fault_of_step_fault {s : State} {x : Fault} (h : step s = .fault x) :
    x = .ud ∨ ∃ i, exec i s = .fault x := by
  unfold step at h
  split at h
  case h_1 i _ _ => exact .inr ⟨i, h⟩
  case h_2 => cases h; exact .inl rfl
  all_goals cases h

/-- MXCSR in the fault outcome: the free flags of a SIMD floating-point exception are OR-ed in (R109). -/
theorem faultState_simdFault_mxcsr (s : State) (f : Form) :
    (faultState (s.simdFault f) s).mxcsr = s.faultMxcsr f ∧
      (s.simdFault f = .xm (s.faultMxcsr f) ∨ s.simdFault f = .udSimd (s.faultMxcsr f)) := by
  unfold State.simdFault
  split
  · exact ⟨rfl, .inl rfl⟩
  · exact ⟨rfl, .inr rfl⟩

theorem faultState_mxcsr_of_not_simd {x : Fault} (h : x.isSimd = false) (s : State) :
    (faultState x s).mxcsr = s.mxcsr := by
  cases x with
  | xm m | udSimd m => cases h
  | ud | nm | ss | gp | pf | ac => rfl

/-- Only IE and DE can be raised by the free flags. -/
theorem faultMxcsr_getLsbD_ne {s : State} {f : Form} {b : Nat}
    (h : (s.faultMxcsr f).getLsbD b ≠ s.mxcsr.getLsbD b) : b < 2 ∧ s.mxcsr.getLsbD b = false := by
  rw [State.faultMxcsr, BitVec.getLsbD_or] at h
  cases hs : s.mxcsr.getLsbD b
  · refine ⟨?_, rfl⟩
    by_contra hb
    simp [hs, BitVec.getLsbD_setWidth, BitVec.getLsbD_of_ge _ b (Nat.not_lt.1 hb)] at h
  · simp [hs] at h

/-- Settles O45: `faultState` writes CR2 and MXCSR alone, and MXCSR as R109 says. -/
theorem faultsArePrecise : Obligations.FaultsArePrecise := by
  intro s x h t
  have hexec : x = .ud ∨ ∃ i, exec i s = .fault x := h.elim exec_fault_of_step_fault .inr
  have hmxcsr : ∀ b, t.mxcsr.getLsbD b ≠ s.mxcsr.getLsbD b →
      b < 2 ∧ s.mxcsr.getLsbD b = false ∧ (x = .xm t.mxcsr ∨ x = .udSimd t.mxcsr) := by
    intro b hb
    cases hx : x.isSimd
    case false => exact absurd (congrArg (·.getLsbD b) (faultState_mxcsr_of_not_simd hx s)) hb
    case true =>
      obtain rfl | ⟨i, hi⟩ := hexec
      · cases hx
      · obtain ⟨-, rfl⟩ := unmasked_of_exec_simd_fault hi hx
        obtain ⟨ht, hfault⟩ := faultState_simdFault_mxcsr s (Instr.form i)
        rw [show t.mxcsr = _ from ht] at hb ⊢
        obtain ⟨hlt, hzero⟩ := faultMxcsr_getLsbD_ne hb
        exact ⟨hlt, hzero, hfault⟩
  cases x <;> exact ⟨rfl, rfl, rfl, rfl, fun _ => rfl, rfl, rfl, rfl, rfl, rfl, rfl, hmxcsr⟩

end Sys2Proof.Machine
end

section
/-! SUPPORT. What the outcome of an instruction does not depend on: MXCSR.DAZ (R105), and the elements of unselected
lanes (R108, R133, R143). -/

namespace Sys2Proof.Machine

/-! ### Instructions that fare alike in two states -/

/-- An operand read at two states: the same elements, faults that report the same exception, or the same refusal. -/
structure ReadsAlike (f : Form) (o : Operands) (s s' : State) : Prop where
  ok      : ∀ src, readSource f o s = .ok src → ∃ src', readSource f o s' = .ok src' ∧ SameElements f o s s' src src'
  fault   : ∀ x, readSource f o s = .error (.fault x) →
    ∃ x', readSource f o s' = .error (.fault x') ∧ x'.exception = x.exception
  refused : ∀ r, readSource f o s = .error (.refused r) → readSource f o s' = .error (.refused r)

namespace ReadsAlike
variable {f : Form} {o : Operands} {s s' : State}

theorem of_ok {src src' : Nat → Half} (h : readSource f o s = .ok src) (h' : readSource f o s' = .ok src')
    (hsame : SameElements f o s s' src src') : ReadsAlike f o s s' where
  ok _ hr := by
    obtain rfl := Except.ok.inj (h.symm.trans hr)
    exact ⟨src', h', hsame⟩
  fault _ hr := by cases h.symm.trans hr
  refused _ hr := by cases h.symm.trans hr

theorem of_fault {x x' : Fault} (h : readSource f o s = .error (.fault x)) (h' : readSource f o s' = .error (.fault x'))
    (hx : x'.exception = x.exception) : ReadsAlike f o s s' where
  ok _ hr := by cases h.symm.trans hr
  fault _ hr := by
    cases h.symm.trans hr
    exact ⟨x', h', hx⟩
  refused _ hr := by cases h.symm.trans hr

theorem of_refused {r : Refusal} (h : readSource f o s = .error (.refused r))
    (h' : readSource f o s' = .error (.refused r)) : ReadsAlike f o s s' where
  ok _ hr := by cases h.symm.trans hr
  fault _ hr := by cases h.symm.trans hr
  refused _ hr := h'.trans (h.symm.trans hr)

end ReadsAlike

theorem simdFault_exception_congr {s s' : State} (hctl : s'.ctl = s.ctl) (f : Form) :
    (s'.simdFault f).exception = (s.simdFault f).exception := by
  rw [State.simdFault, State.simdFault, hctl]
  split <;> rfl

/-- An instruction that faults in one state faults in another with the same exception, where it passes the same checks,
has the same exceptions masked and reads its operand alike. -/
theorem exec_fault_congr {i : Instr} {s s' : State} {x : Fault} (h : exec i s = .fault x)
    (hgate : gate (Instr.form i) (Instr.operands i) s' = gate (Instr.form i) (Instr.operands i) s)
    (hctl : s'.ctl = s.ctl) (him : s'.im = s.im) (hdm : s'.dm = s.dm)
    (hread : ReadsAlike (Instr.form i) (Instr.operands i) s s') :
    ∃ x', exec i s' = .fault x' ∧ x'.exception = x.exception := by
  rcases exec_fault_iff.1 h with hg | ⟨hg, hr | ⟨src, hsrc, ⟨hsae, hu⟩, rfl⟩⟩
  · exact ⟨x, exec_fault_iff.2 (.inl (hgate.trans hg)), rfl⟩
  · obtain ⟨x', hr', hx⟩ := hread.fault x hr
    exact ⟨x', exec_fault_iff.2 (.inr ⟨hgate.trans hg, .inl hr'⟩), hx⟩
  · obtain ⟨src', hsrc', hsame⟩ := hread.ok src hsrc
    refine ⟨_, exec_fault_iff.2 (.inr ⟨hgate.trans hg, .inr ⟨src', hsrc', ⟨hsae, ?_⟩, rfl⟩⟩),
      simdFault_exception_congr hctl _⟩
    rwa [State.unmasked, him, hdm, hsame.signals_eq]

/-- When a form is refused: at the checks, or at the operand read. -/
theorem exec_refused_iff {i : Instr} {s : State} {r : Refusal} :
    exec i s = .refused r ↔
      gate (Instr.form i) (Instr.operands i) s = some (.refused r) ∨
      gate (Instr.form i) (Instr.operands i) s = none ∧
        readSource (Instr.form i) (Instr.operands i) s = .error (.refused r) := by
  rw [exec_eq_convertForm, convertForm]
  generalize Instr.form i = f, Instr.operands i = o
  cases gate f o s with
  | some st => cases st <;> simp [Stop.outcome]
  | none =>
    cases readSource f o s with
    | error st => cases st <;> simp [Stop.outcome]
    | ok src => simp only [reduceCtorEq, and_false, or_false, iff_false]; split <;> simp

theorem exec_refused_congr {i : Instr} {s s' : State} {r : Refusal} (h : exec i s = .refused r)
    (hgate : gate (Instr.form i) (Instr.operands i) s' = gate (Instr.form i) (Instr.operands i) s)
    (hread : ReadsAlike (Instr.form i) (Instr.operands i) s s') : exec i s' = .refused r := by
  rcases exec_refused_iff.1 h with hg | ⟨hg, hr⟩
  · exact exec_refused_iff.2 (.inl (hgate.trans hg))
  · exact exec_refused_iff.2 (.inr ⟨hgate.trans hg, hread.refused r hr⟩)

/-! ### Reads from memory and from a register -/

/-- The order of R161: segment faults, page faults, alignment. -/
theorem oracleFault_eq_or (s : State) (f : Form) (a n : Nat) :
    oracleFault s f a n =
      ((List.range' a n).findSome? (segFaultAt s f a n)).or
        (((List.range' a n).findSome? (pageFaultAt s f a n)).or (alignFault s f a n)) := by
  unfold oracleFault
  cases (List.range' a n).findSome? (segFaultAt s f a n) <;>
    cases (List.range' a n).findSome? (pageFaultAt s f a n) <;> rfl

/-- A page fault depends on whether the byte is mapped, not on the byte; its error code is free (log 2). -/
theorem pageFaultAt_exception_congr {s s' : State} {f : Form} {a n z : Nat}
    (hdenial : denialAt s' f a n z = denialAt s f a n z)
    (hmap : (Memory.read s'.mem z).isSome = (Memory.read s.mem z).isSome) :
    (pageFaultAt s' f a n z).map Fault.exception = (pageFaultAt s f a n z).map Fault.exception := by
  rw [pageFaultAt, pageFaultAt, hdenial]
  rcases denialAt s f a n z with _ | _ | _ | _ | _
  case some.ss | some.gp | some.pf => rfl
  all_goals cases hm : Memory.read s'.mem z <;> cases hs : Memory.read s.mem z <;> simp_all [Fault.exception]

/-- A memory operand inside the address space, at which the oracle answers the bytes, is read (R41, R42). -/
theorem readSource_of_oracleFault_eq_none {f : Form} {o : Operands} {s : State} {a : AddrForm} {b : Bool}
    (hsrc : o.src = .mem a b) (htop : operandAddr f o s a b + f.readBytes b ≤ s.top)
    (h : oracleFault s f (operandAddr f o s a b) (f.readBytes b) = none) :
    readSource f o s = .ok (s.memElems (operandAddr f o s a b) b) := by
  simp only [readSource, hsrc, if_neg (Nat.not_lt.2 htop), h]
  rfl

section MemoryRead
variable {f : Form} {o : Operands} {s : State} {m : List Host.Cell} {mx : BitVec 32}
  (hmap : ∀ z, (Memory.read m z).isSome = (Memory.read s.mem z).isSome)
include hmap

/-- The oracle's answers to a read, where the same bytes are mapped, and whatever MXCSR is. -/
theorem oracleFault_exception_congr (a n : Nat) :
    (oracleFault { s with mem := m, mxcsr := mx } f a n).map Fault.exception =
      (oracleFault s f a n).map Fault.exception := by
  have hpage : Option.map Fault.exception ∘ pageFaultAt { s with mem := m, mxcsr := mx } f a n =
      Option.map Fault.exception ∘ pageFaultAt s f a n :=
    funext fun z => pageFaultAt_exception_congr rfl (hmap z)
  simp only [oracleFault_eq_or, Option.map_or, List.map_findSome?, hpage]
  rfl

/-- A memory operand is read alike where the same bytes are mapped and the selected lanes' elements are the same. -/
theorem readsAlike_of_mem {a : AddrForm} {b : Bool} (hsrc : o.src = .mem a b)
    (helems : ∀ j, j < f.vl.lanes → o.selects s j = true →
      ({ s with mem := m, mxcsr := mx } : State).memElems (operandAddr f o s a b) b j =
        s.memElems (operandAddr f o s a b) b j) :
    ReadsAlike f o s { s with mem := m, mxcsr := mx } := by
  have horacle := oracleFault_exception_congr (f := f) (mx := mx) hmap (operandAddr f o s a b) (f.readBytes b)
  rcases Nat.lt_or_ge s.top (operandAddr f o s a b + f.readBytes b) with htop | htop
  · exact .of_refused (readSource_of_top_lt hsrc htop) (readSource_of_top_lt hsrc htop)
  · cases hx : oracleFault s f (operandAddr f o s a b) (f.readBytes b) with
    | none =>
      rw [hx] at horacle
      exact .of_ok (readSource_of_oracleFault_eq_none hsrc htop hx)
        (readSource_of_oracleFault_eq_none hsrc htop (Option.map_eq_none_iff.1 horacle)) fun j hj => ⟨rfl, helems j hj⟩
    | some x =>
      rw [hx] at horacle
      obtain ⟨x', hx', hexc⟩ := Option.map_eq_some_iff.1 horacle
      exact .of_fault (readSource_of_oracleFault hsrc htop hx) (readSource_of_oracleFault hsrc htop hx') hexc

end MemoryRead

/-- A register operand is read alike where the elements of the selected lanes are the same. -/
theorem readsAlike_of_reg {f : Form} {o : Operands} {s s' : State} {r : BitVec 5} {sae : Bool}
    (hsrc : o.src = .reg r sae) (hsel : o.selects s' = o.selects s)
    (helems : ∀ j, j < f.vl.lanes → o.selects s j = true → halfLane (s'.readVec r) j = halfLane (s.readVec r) j) :
    ReadsAlike f o s s' :=
  .of_ok (readSource_reg hsrc) (readSource_reg hsrc) fun j hj => ⟨congrFun hsel j, helems j hj⟩

/-! ### The obligations -/

theorem halfValue_ne_zero_of_denormal {h : Half} (he : halfExp h = 0#5) (hf : halfFrac h ≠ 0#10) : halfValue h ≠ 0 := by
  have hfrac : (halfFrac h).toNat ≠ 0 := fun h0 => hf (BitVec.eq_of_toNat_eq h0)
  rw [halfValue_of_denormal he]
  positivity

/-- A commit keeps bits that are set in MXCSR before it, its flags beside them. -/
theorem commit_or_mxcsr {f : Form} {o : Operands} {s : State} {src src' : Nat → Half} {bits : BitVec 32}
    (h : SameElements f o s { s with mxcsr := s.mxcsr ||| bits } src src') :
    commit f o { s with mxcsr := s.mxcsr ||| bits } src' =
      { commit f o s src with mxcsr := (commit f o s src).mxcsr ||| bits } := by
  have hmx : (if o.sae then s.mxcsr ||| bits else stickyFlags (s.mxcsr ||| bits) (signals f o s src)) =
      (if o.sae then s.mxcsr else stickyFlags s.mxcsr (signals f o s src)) ||| bits := by
    cases o.sae
    · simp only [stickyFlags, Bool.false_eq_true, if_false, BitVec.or_assoc]
      rw [BitVec.or_comm bits]
    · rfl
  simp only [commit, h.signals_eq, h.packLanes_eq rfl rfl, hmx]
  rfl

/-- Settles O22: DAZ is a bit of MXCSR that neither the checks nor the lanes nor the signals read. -/
theorem denormalsAreNeverTreatedAsZero : Obligations.DenormalsAreNeverTreatedAsZero := by
  constructor
  · intro c h hden
    obtain ⟨he, hf⟩ : halfExp h = 0#5 ∧ halfFrac h ≠ 0#10 := by simpa [halfIsDenormal] using hden
    obtain ⟨hvalue, -⟩ := conversionIsExactOnFiniteValues c h (by simp [he])
    exact ⟨hvalue, halfValue_ne_zero_of_denormal he hf⟩
  · intro s i daz
    have hgate : gate (Instr.form i) (Instr.operands i) daz = gate (Instr.form i) (Instr.operands i) s :=
      gate_congr rfl rfl rfl
    have him : daz.im = s.im := by simp [State.im, daz]
    have hdm : daz.dm = s.dm := by simp [State.dm, daz]
    have hread : ReadsAlike (Instr.form i) (Instr.operands i) s daz := by
      cases hsrc : (Instr.operands i).src with
      | reg r sae => exact readsAlike_of_reg hsrc rfl fun _ _ _ => rfl
      | mem a b => exact readsAlike_of_mem (m := s.mem) (fun _ => rfl) hsrc fun _ _ _ => rfl
    refine ⟨fun t h => ?_, fun x h => exec_fault_congr h hgate rfl him hdm hread⟩
    obtain ⟨src, src', rfl, hexec, hsame⟩ := exec_next_congr h hgate him hdm hread.ok
    rw [hexec, commit_or_mxcsr hsame]

theorem halfLane_getLsbD (v : VReg) (j b : Nat) :
    (halfLane v j).getLsbD b = (decide (b < 16) && v.getLsbD (16 * j + b)) := by
  rw [halfLane, BitVec.getLsbD_extractLsb']

/-- An element of a register as it is read back, where what is written has it as the register does. -/
theorem halfLane_readVec_writeVec {s : State} {r : BitVec 5} {v : VReg} {j : Nat}
    (h : halfLane v j = halfLane (s.readVec r) j) :
    halfLane ((s.writeVec r v).readVec r) j = halfLane (s.readVec r) j := by
  apply BitVec.eq_of_getLsbD_eq
  intro b hb
  have hbit := congrArg (BitVec.getLsbD · b) h
  simp only [halfLane_getLsbD, hb, decide_true, Bool.true_and] at hbit ⊢
  rw [readVec_writeVec_same, vecMask_getLsbD, hbit, ← vecMask_getLsbD, State.readVec, vecMask_vecMask]

/-- An element of memory is its two bytes. -/
theorem halfAt_congr {s s' : State} {a : Nat}
    (h : ∀ x, a ≤ x → x < a + 2 → Memory.read s'.mem x = Memory.read s.mem x) : s'.halfAt a = s.halfAt a := by
  rw [State.halfAt, State.halfAt, State.byteAt, State.byteAt, State.byteAt, State.byteAt, h a (by omega) (by omega),
    h (a + 1) (by omega) (by omega)]

/-- An instruction at two states: completed with the same destination, MXCSR and `pc`, faulted with the same exception,
or refused alike. -/
structure FaresAlike (i : Instr) (s s' : State) : Prop where
  next    : ∀ t, exec i s = .next t → ∃ t', exec i s' = .next t' ∧
    t'.readVec (Instr.operands i).dst = t.readVec (Instr.operands i).dst ∧ t'.mxcsr = t.mxcsr ∧ t'.pc = t.pc
  fault   : ∀ x, exec i s = .fault x → ∃ x', exec i s' = .fault x' ∧ x'.exception = x.exception
  refused : ∀ x, exec i s = .refused x → exec i s' = .refused x

theorem faresAlike_of_readsAlike {i : Instr} {s s' : State} (hread : ReadsAlike (Instr.form i) (Instr.operands i) s s')
    (hcfg : s'.cfg = s.cfg) (hctl : s'.ctl = s.ctl) (hmxcsr : s'.mxcsr = s.mxcsr) (hpc : s'.pc = s.pc)
    (hdst : s'.readVec (Instr.operands i).dst = s.readVec (Instr.operands i).dst) : FaresAlike i s s' := by
  have hgate : gate (Instr.form i) (Instr.operands i) s' = gate (Instr.form i) (Instr.operands i) s :=
    gate_congr (by rw [hcfg]) (by rw [hcfg]) hctl
  have him : s'.im = s.im := by rw [State.im, State.im, hmxcsr]
  have hdm : s'.dm = s.dm := by rw [State.dm, State.dm, hmxcsr]
  refine ⟨fun t h => ?_, fun x h => exec_fault_congr h hgate hctl him hdm hread,
    fun x h => exec_refused_congr h hgate hread⟩
  obtain ⟨src, src', rfl, hexec, hsame⟩ := exec_next_congr h hgate him hdm hread.ok
  refine ⟨_, hexec, ?_, hsame.commit_mxcsr_eq hmxcsr, commit_pc_eq hpc (by rw [hcfg])⟩
  rw [commit_readVec_dst, commit_readVec_dst, hsame.packLanes_eq (by rw [hcfg]) hdst, State.vecMask,
    State.vecMask, hcfg]

/-- Settles O56: the elements of the selected lanes are the same, in the register or in memory. -/
theorem unselectedLanesDoNotMatter : Obligations.UnselectedLanesDoNotMatter := by
  intro s i f o same
  have hsame : ∀ s', FaresAlike i s s' → same s' := fun s' h => ⟨h.next, h.fault, h.refused⟩
  refine ⟨fun r sae v hsrc hne helems => hsame _ ?reg, fun a m hsrc hmap helems => hsame _ ?mem⟩
  case reg =>
    have hread : ReadsAlike f o s (s.writeVec r v) :=
      readsAlike_of_reg hsrc rfl fun j hj hsel => halfLane_readVec_writeVec (helems j hj hsel)
    exact faresAlike_of_readsAlike hread rfl rfl rfl rfl (readVec_writeVec_other s v hne.symm)
  case mem =>
    have hread : ReadsAlike f o s { s with mem := m } :=
      readsAlike_of_mem (mx := s.mxcsr) hmap hsrc fun j hj hsel => halfAt_congr (helems j hj hsel)
    exact faresAlike_of_readsAlike hread rfl rfl rfl rfl rfl

end Sys2Proof.Machine
end

section
/-! SUPPORT. The `#UD` and `#NM` checks that come before the operand read (R150 to R154, R161 steps 1 and 2), and the
numbers of the exceptions (R160). -/

namespace Sys2Proof.Machine

/-! ### The operating system's enabling, bit by bit (R153) -/

theorem extractLsb'_eq_allOnes_iff {w : Nat} (x : BitVec w) (i n : Nat) :
    x.extractLsb' i n = BitVec.allOnes n ↔ ∀ j < n, x.getLsbD (i + j) = true := by
  constructor
  · intro h j hj
    simpa [hj] using congrArg (BitVec.getLsbD · j) h
  · intro h
    apply BitVec.eq_of_getLsbD_eq
    intro j hj
    simp [hj, h j hj]

theorem osStateOk_iff {c : Control} {e : PrefixKind} :
    c.osStateOk e = true ↔
      c.cr4Osxsave = true ∧ (∀ j < 2, c.xcr0.getLsbD (1 + j) = true) ∧
        (e = .evex → ∀ j < 3, c.xcr0.getLsbD (5 + j) = true) := by
  rw [← extractLsb'_eq_allOnes_iff, ← extractLsb'_eq_allOnes_iff]
  cases e <;> simp [Control.osStateOk, and_assoc]

/-- A vector state that is not enabled is one of the `#UD` conditions (R150 row 6). -/
theorem exec_eq_ud_of_osStateOk_eq_false {i : Instr} {s : State} (h : Spellable i s)
    (hos : s.ctl.osStateOk (Instr.form i).enc = false) : exec i s = .fault .ud :=
  exec_eq_ud h (by simp [invalidOpcode, hos])

/-- Settles O35: each of the named bits alone makes `osStateOk` false. -/
theorem vectorStateNotEnabledRaisesInvalidOpcode : Obligations.VectorStateNotEnabledRaisesInvalidOpcode := by
  intro s i h hoff
  refine exec_eq_ud_of_osStateOk_eq_false h (Bool.eq_false_iff.2 fun hos => ?_)
  obtain ⟨hosxsave, hlow, hevex⟩ := osStateOk_iff.1 hos
  rcases hoff with hc | hc | hc | ⟨he, hc | hc | hc⟩
  · exact Bool.false_ne_true (hc.symm.trans hosxsave)
  · exact Bool.false_ne_true (hc.symm.trans (hlow 0 (by decide)))
  · exact Bool.false_ne_true (hc.symm.trans (hlow 1 (by decide)))
  · exact Bool.false_ne_true (hc.symm.trans (hevex he 0 (by decide)))
  · exact Bool.false_ne_true (hc.symm.trans (hevex he 1 (by decide)))
  · exact Bool.false_ne_true (hc.symm.trans (hevex he 2 (by decide)))

/-! ### Reserved fields (R151, R152) -/

/-- A VEX form has neither `V'` nor `z`, so it is spellable where the mode can spell it. -/
theorem spellable_vexInstr {s : State} {l256 : Bool} {x : VexOps}
    (h : (vexInstr l256 x).wfIn s.cfg.mode = true) : Spellable (vexInstr l256 x) s := by
  rw [Spellable, operands_vexInstr]
  exact ⟨h, rfl, nofun⟩

/-- Settles O31: W is the first of the `#UD` conditions (R150 row 1). -/
theorem vexWRaisesInvalidOpcode : Obligations.VexWRaisesInvalidOpcode := by
  intro s l256 x h hw
  have hw' : (Instr.operands (vexInstr l256 x)).w = true := by rw [operands_vexInstr]; exact hw
  exact exec_eq_ud (spellable_vexInstr h) (by simp [invalidOpcode, hw'])

/-- Settles O32: `vvvv` is one of the `#UD` conditions (R150 row 2). -/
theorem reservedVvvvRaisesInvalidOpcode : Obligations.ReservedVvvvRaisesInvalidOpcode := by
  intro s i h hv
  exact exec_eq_ud h (by simp [invalidOpcode, hv])

/-! ### Device not available (R154) -/

/-- A legal instruction of a form that CPUID and the operating system enable meets no `#UD` condition. -/
theorem invalidOpcode_eq_false {i : Instr} {s : State} (h : Legal i s) (hcpu : (Instr.form i).cpuidOk s.cfg = true)
    (hos : s.ctl.osStateOk (Instr.form i).enc = true) :
    invalidOpcode (Instr.form i) (Instr.operands i) s = false := by
  obtain ⟨-, hw, hv, hb⟩ := h
  have hb' : (Instr.form i).psx = false → (Instr.operands i).bcst = false := by
    intro hp
    simpa [hp] using hb
  exact invalidOpcode_eq_false_iff.2 ⟨hw, hv, hb', hcpu, hos⟩

/-- CR0.TS is looked at after the refusals and the `#UD` conditions (R161 step 2). -/
theorem gate_eq_nm {f : Form} {o : Operands} {s : State} (henc : encodingRefusal o s = none)
    (hop : invalidOpcode f o s = false) (hts : s.ctl.cr0Ts = true) : gate f o s = some (.fault .nm) := by
  simp [gate, henc, hop, hts]

/-- Settles O36: the checks before CR0.TS pass. -/
theorem taskSwitchedRaisesDeviceNotAvailable : Obligations.TaskSwitchedRaisesDeviceNotAvailable := by
  intro s i hl hcpu hos hts
  have hop := invalidOpcode_eq_false hl hcpu hos
  exact ⟨exec_fault_iff.2 (.inl (gate_eq_nm (encodingRefusal_eq_none hl.1) hop hts)), rfl⟩

/-! ### The numbers of the exceptions (R160) -/

/-- Settles O46, fault by fault. -/
theorem exceptionNumbers : Obligations.ExceptionNumbers := by
  refine ⟨fun f => ?codes, rfl, rfl, rfl, rfl, rfl, rfl, rfl, fun _ => rfl⟩
  case codes => cases f <;> rfl

end Sys2Proof.Machine
end
